-- ==== Sys2Proof/Word.lean ====
section
/-!
DEFINITION. Bytes, the part's numbering (00_scope.md, "Numbering") and fixed-size tables with one read and one write.
-/

namespace Sys2Proof

/-- A byte of a frame. -/
abbrev Byte := BitVec 8

/-- Slot 0-15: on line s div 4, at tag position s mod 4. -/
abbrev SlotNo := Fin 16
abbrev LineNo := Fin 4
abbrev TagPos := Fin 4
abbrev ChannelNo := Fin 8
abbrev HeadNo := Fin 32
abbrev SetNo := Fin 8
abbrev WaveNo := Fin 4
abbrev KeyNo := Fin 8
abbrev HistNo := Fin 64
abbrev SchedNo := Fin 64
abbrev IndNo := Fin 8
abbrev RecNo := Fin 8

/-- A table of `n` like things. -/
abbrev Tbl (n : Nat) (α : Type) := Vector α n

section Tables
variable {n : Nat} {α : Type}

/-- Entry `i` of a table. -/
def nth (t : Tbl n α) (i : Fin n) : α := t[i]

/-- The table with entry `i` replaced. -/
def upd (t : Tbl n α) (i : Fin n) (x : α) : Tbl n α := t.set i x

/-- The table whose entry `i` is `f i`. -/
def tab (f : Fin n → α) : Tbl n α := Vector.ofFn f

/-- The table with the same entry everywhere. -/
def fill (x : α) : Tbl n α := Vector.replicate n x

@[simp] theorem nth_upd_same (t : Tbl n α) (i : Fin n) (x : α) : nth (upd t i x) i = x := by
  simp [nth, upd]

theorem nth_upd_ne (t : Tbl n α) {i j : Fin n} (x : α) (h : i ≠ j) : nth (upd t i x) j = nth t j := by
  have : i.val ≠ j.val := fun e => h (Fin.ext e)
  simp [nth, upd, this]

theorem nth_upd (t : Tbl n α) (i j : Fin n) (x : α) :
    nth (upd t i x) j = if i = j then x else nth t j := by
  by_cases h : i = j
  · subst h; simp
  · rw [if_neg h]; exact nth_upd_ne t x h

@[simp] theorem nth_tab (f : Fin n → α) (i : Fin n) : nth (tab f) i = f i := by
  simp [nth, tab]

@[simp] theorem nth_fill (x : α) (i : Fin n) : nth (fill x : Tbl n α) i = x := by
  simp [nth, fill]

/-- Two tables with the same entries are the same table. -/
theorem tbl_ext {t u : Tbl n α} (h : ∀ i, nth t i = nth u i) : t = u := by
  apply Vector.ext
  intro i hi
  exact h ⟨i, hi⟩

end Tables

/-- The line of a slot (00_scope.md, "Numbering"). -/
def lineOf (i : SlotNo) : LineNo := ⟨i.val / 4, by omega⟩

/-- The tag position of a slot on its line. -/
def posOf (i : SlotNo) : TagPos := ⟨i.val % 4, by omega⟩

/-- The slot at a tag position of a line. -/
def slotAt (l : LineNo) (p : TagPos) : SlotNo := ⟨4 * l.val + p.val, by omega⟩

end Sys2Proof
end

