-- ==== Sys2Proof/Syntax.lean ====
section
/-!
DEFINITION. The part's commands: one constructor per row of spec/opcode_table.json. Frames that the link unit or a line
controller has received whole are given by their fields (R68, R69, R72); `Sys2Proof/Decode.lean` reads those fields from raw bytes.
-/

namespace Sys2Proof

/-- A link frame without its frame check (R68): kind code, header byte 1 (bits 7-6 spare, bits 5-0 address), body. -/
structure LinkFrame where
  kind : Byte
  hdr : Byte
  body : List Byte
  deriving DecidableEq, Repr

/-- The link address of a header byte: bits 5-0 (R68). -/
def addressOf (hdr : Byte) : Nat := (hdr &&& 0x3F#8).toNat

/-- A FIRING frame (R69): header byte 1, waveform, nozzle code n (nozzle count 64 x (n + 1)), line number, and the packed drop codes. -/
structure FiringFrame where
  hdr : Byte
  waveform : BitVec 2
  nozzles : BitVec 6
  line : BitVec 16
  codes : List Byte
  deriving DecidableEq, Repr

/-- A tag's answer frame (R72): byte 0, status, payload, and whether the frame's own check and declared length are right. -/
structure AnswerFrame where
  echo : Byte
  status : Byte
  payload : List Byte
  checkOk : Bool
  deriving DecidableEq, Repr

/-- The input pins as they stand when a reset ends: the address straps (R55) and the presence contacts (R74; member n set when
contact n reads CLOSED). -/
structure Pins where
  straps : BitVec 3
  contacts : BitVec 16
  deriving DecidableEq, Repr

/-- The part's commands, one for each row of spec/opcode_table.json. A request's operands stand in the request queue (R185,
R192), so the commands that serve a request carry none. -/
inductive Instr where
  -- power and reset
  | powerOn (pins : Pins)
  | resetLine (pins : Pins)
  -- downstream
  | firing (f : FiringFrame)
  | swathOpen (hdr : Byte) (id : BitVec 16)
  | swathClose (hdr : Byte) (id : BitVec 16)
  | swathExpiry
  | headControl (f : LinkFrame)
  | management (tag : Byte) (kind : BitVec 16) (args : List Byte)
  | checkFailure (kind : Byte)
  | lossOfFraming
  -- upstream
  | headStatus (f : LinkFrame)
  | returnCheckFailure (kind : Byte)
  | headPortFramingLoss
  | transmissionEnd (pins : Pins)
  | indicatorTimerExpiry (i : IndNo)
  -- cartridges
  | contactClose (i : SlotNo)
  | contactOpen (i : SlotNo)
  | settlingEnd (i : SlotNo)
  | retirementHandover (i : SlotNo)
  | transactionStart (l : LineNo)
  | answerFrame (l : LineNo) (a : AnswerFrame)
  | answerTimeout (l : LineNo)
  | retryPauseEnd (l : LineNo)
  | lineStop (l : LineNo)
  -- stores and schedule
  | scanEnd
  | historyWriteEnd
  | keyWriteEnd
  | scheduleTick
  -- serving the request at the head of the queue
  | unknownRequest
  | channelWrite
  | channelLimitsWrite
  | channelRead
  | headMapWrite
  | headMapRead
  | volumeWrite
  | volumeRead
  | channelCountersClear
  | channelDebit
  | swathLimitWrite
  | swathRead
  | lineRead
  | keyLoad
  | keyRevoke
  | keyStatus
  | denyAdd
  | denyRemove
  | denyRead
  | slotRead
  | slotRetry
  | slotRechallenge
  | testWriteArm
  | historyRead
  | historyErase
  | auditStart
  | auditContinue
  | auditStop
  | auditRead
  | scheduleRun
  | scheduleHalt
  | scheduleWrite
  | scheduleRead
  | eventRead
  | eventInsert
  | routeWrite
  | routeRead
  | conditionRead
  | indicatorWrite
  | indicatorRelease
  | indicatorRead
  | modeSet
  | statusRead
  | timeSet
  | partReset
  -- power loss and clocks
  | powerLoss (historyDone keyDone : Bool)
  | partTimeIncrement
  | blinkPhase (i : IndNo)
  deriving DecidableEq, Repr

end Sys2Proof
end

