-- ==== Sys2Proof/WellFormed.lean ====
section
/-!
DEFINITION. Which commands are well-formed: the frames a command names are good frames of its row (R57, R61, R64, R68, R69).
-/

namespace Sys2Proof

/-- R57, R69: a FIRING frame's drop codes fill nozzle count / 4 = 16 x (n + 1) bytes. -/
def FiringFrame.lengthOk (f : FiringFrame) : Bool := f.codes.length == 16 * (f.nozzles.toNat + 1)

/-- R57, R68: a body is at most 2,048 bytes. -/
def bodyOk (body : List Byte) : Bool := body.length ≤ 2048

/-- R57, R69: the body length that the kind asks for, upstream kinds and kinds not listed included. -/
def kindLengthOk (f : LinkFrame) : Bool :=
  bodyOk f.body &&
  if f.kind = 0x10#8 then
    match f.body with
    | b :: _ => f.body.length == 3 + 16 * ((b &&& 0x3F#8).toNat + 1)
    | [] => false
  else if f.kind = 0x11#8 ∨ f.kind = 0x12#8 then f.body.length == 2
  else if f.kind = 0x14#8 then 3 ≤ f.body.length
  else true

/-- The check of each command. Serving, clock and line commands carry nothing that could be ill-formed. -/
def Instr.wf : Instr → Bool
  | .firing f => f.lengthOk && addressOf f.hdr < 32
  | .headControl f => kindLengthOk f && !(f.kind = 0x10#8 && addressOf f.hdr < 32) && f.kind ≠ 0x11#8 && f.kind ≠ 0x12#8
  | .management _ _ args => args.length ≤ 2045
  | .headStatus f => kindLengthOk f
  | .answerFrame _ a => a.payload.length ≤ 255
  | .powerOn _ | .resetLine _ | .swathOpen _ _ | .swathClose _ _ | .swathExpiry | .checkFailure _ | .lossOfFraming
  | .returnCheckFailure _ | .headPortFramingLoss | .transmissionEnd _ | .indicatorTimerExpiry _ | .contactClose _
  | .contactOpen _ | .settlingEnd _ | .retirementHandover _ | .transactionStart _ | .answerTimeout _ | .retryPauseEnd _
  | .lineStop _ | .scanEnd | .historyWriteEnd | .keyWriteEnd | .scheduleTick | .unknownRequest | .channelWrite
  | .channelLimitsWrite | .channelRead | .headMapWrite | .headMapRead | .volumeWrite | .volumeRead | .channelCountersClear
  | .channelDebit | .swathLimitWrite | .swathRead | .lineRead | .keyLoad | .keyRevoke | .keyStatus | .denyAdd | .denyRemove
  | .denyRead | .slotRead | .slotRetry | .slotRechallenge | .testWriteArm | .historyRead | .historyErase | .auditStart
  | .auditContinue | .auditStop | .auditRead | .scheduleRun | .scheduleHalt | .scheduleWrite | .scheduleRead | .eventRead
  | .eventInsert | .routeWrite | .routeRead | .conditionRead | .indicatorWrite | .indicatorRelease | .indicatorRead | .modeSet
  | .statusRead | .timeSet | .partReset | .powerLoss _ _ | .partTimeIncrement | .blinkPhase _ => true

end Sys2Proof
end

