-- ==== Sys2Proof/Decode.lean ====
section
/-!
DEFINITION. From bytes to commands: the table gives its rows no bits, so `decodeTableWord` reads none. What the part does read
from bytes are the frames of the head link (R57, R68, R69, R70) and of the cartridge bus (R72); the encoders stand beside them.
-/

namespace Sys2Proof

/-- The command a word spells by the bits of spec/opcode_table.json: no row gives any. -/
def decodeTableWord (_nbits _w : Nat) : Option Instr := none

/-! ## Byte order (04, "Wire and tag formats": most significant byte first) -/

/-- The low `n` bytes of a number. -/
def be : Nat → Nat → List Byte
  | 0, _ => []
  | n + 1, v => BitVec.ofNat 8 (v / 256 ^ n) :: be n v

/-- The number that bytes spell. -/
def ofBe (bs : List Byte) : Nat := bs.foldl (fun a b => a * 256 + b.toNat) 0

/-! ## Frame checks (R68, R72): most significant bit first, not reflected, nothing XORed in at the end -/

/-- One bit of a cyclic redundancy check with generator `g`. -/
def crcBit {w : Nat} (g c : BitVec w) : BitVec w := if c.msb then (c <<< 1) ^^^ g else c <<< 1

/-- One byte, already XORed into the top of the register. -/
def crcByte {w : Nat} (g c : BitVec w) : BitVec w :=
  crcBit g (crcBit g (crcBit g (crcBit g (crcBit g (crcBit g (crcBit g (crcBit g c)))))))

/-- R68: generator 04C11DB7h, initial value FFFFFFFFh. -/
def crc32 (bs : List Byte) : BitVec 32 :=
  bs.foldl (fun c b => crcByte 0x04C11DB7#32 (c ^^^ (b ++ 0#24))) 0xFFFFFFFF#32

/-- R72: generator 1021h, initial value FFFFh. -/
def crc16 (bs : List Byte) : BitVec 16 :=
  bs.foldl (fun c b => crcByte 0x1021#16 (c ^^^ (b ++ 0#8))) 0xFFFF#16

/-! ## Link frames (R57, R68) -/

/-- Header and body. -/
def LinkFrame.bytes (f : LinkFrame) : List Byte := f.kind :: f.hdr :: (be 2 f.body.length ++ f.body)

/-- The whole frame with its frame check. -/
def LinkFrame.wire (f : LinkFrame) : List Byte := f.bytes ++ be 4 (crc32 f.bytes).toNat

/-- A received frame, if it passes its check (R57). -/
def LinkFrame.ofWire (bs : List Byte) : Option LinkFrame :=
  match bs with
  | k :: h :: l1 :: l0 :: rest =>
    let n := ofBe [l1, l0]
    let f : LinkFrame := { kind := k, hdr := h, body := rest.take n }
    if rest.length = n + 4 ∧ rest.drop n = be 4 (crc32 f.bytes).toNat ∧ kindLengthOk f then some f else none
  | _ => none

/-- The fields of a FIRING frame's body (R69). -/
def FiringFrame.ofFrame (f : LinkFrame) : Option FiringFrame :=
  match f.body with
  | b :: l1 :: l0 :: codes =>
    some { hdr := f.hdr, waveform := (b >>> 6).truncate 2, nozzles := b.truncate 6, line := l1 ++ l0, codes }
  | _ => none

/-- The FIRING frame with its fields in place (R68, R69). -/
def FiringFrame.frame (f : FiringFrame) : LinkFrame :=
  { kind := 0x10#8, hdr := f.hdr, body := (f.waveform ++ f.nozzles) :: be 2 f.line.toNat ++ f.codes }

/-- A swath frame (R69). -/
def swathFrame (kind hdr : Byte) (id : BitVec 16) : LinkFrame := { kind, hdr, body := be 2 id.toNat }

/-- The command that a good downstream frame is, by kind and address (R61); `bridge` is the part's own address. -/
def commandOf (bridge : Nat) (f : LinkFrame) : Instr :=
  let other : Instr := .headControl f
  if f.kind = 0x10#8 ∧ addressOf f.hdr < 32 then
    match FiringFrame.ofFrame f with
    | some g => .firing g
    | none => other
  else if f.kind = 0x11#8 then .swathOpen f.hdr (BitVec.ofNat 16 (ofBe f.body))
  else if f.kind = 0x12#8 then .swathClose f.hdr (BitVec.ofNat 16 (ofBe f.body))
  else if f.kind = 0x14#8 ∧ addressOf f.hdr = bridge then
    match f.body with
    | t :: k1 :: k0 :: args => .management t (k1 ++ k0) args
    | _ => other
  else other

/-- The command that bytes arriving whole on the controller port are (R57, R58, R61). A failed frame that holds no byte has no kind
code; it is taken as 0 (log 21, DESIGN CHOICE). -/
def receiveDownstream (bridge : Nat) (bs : List Byte) : Instr :=
  match LinkFrame.ofWire bs with
  | some f => commandOf bridge f
  | none => .checkFailure (bs.headD 0)

/-- The command that bytes arriving whole on the head port are (R64); the kind code as in `receiveDownstream` (log 21). -/
def receiveUpstream (bs : List Byte) : Instr :=
  match LinkFrame.ofWire bs with
  | some f => .headStatus f
  | none => .returnCheckFailure (bs.headD 0)

/-! ## Cartridge bus frames (R72) -/

/-- A request frame: byte 0, payload length, payload, check. -/
def busRequest (byte0 : Byte) (payload : List Byte) : List Byte :=
  let bs := byte0 :: BitVec.ofNat 8 payload.length :: payload
  bs ++ be 2 (crc16 bs).toNat

/-- A tag's answer as received: the check and the declared payload length are judged here, the rest of R72's conditions against
the request it answers. -/
def AnswerFrame.ofWire (bs : List Byte) : AnswerFrame :=
  match bs with
  | e :: st :: len :: rest =>
    let n := rest.length - 2
    { echo := e, status := st, payload := rest.take n,
      checkOk := len.toNat == n && (2 ≤ rest.length : Bool) &&
        rest.drop n == be 2 (crc16 (e :: st :: len :: rest.take n)).toNat }
  | _ => { echo := 0, status := 0, payload := [], checkOk := false }

/-- The command that an answer frame on a line is. -/
def receiveAnswer (l : LineNo) (bs : List Byte) : Instr := .answerFrame l (AnswerFrame.ofWire bs)

end Sys2Proof
end

