-- ==== Sys2Proof/Config.lean ====
section
/-!
DEFINITION. What the manual names and does not give, and the free values: constants without a body, so that no proof can see
what they are.
-/

namespace Sys2Proof.Config

/-- The shared keyed function of a challenge (00_scope.md: "named but not given"; R79, R98): key secret, serial, nonce,
latest sequence, latest consumed amount. -/
opaque challengeCode : BitVec 128 → Nat → BitVec 64 → Nat → Nat → BitVec 64

/-- The record code function of usage records (R120, R143): key secret, serial, sequence, consumed amount. -/
opaque recordCode : BitVec 128 → Nat → Nat → Nat → BitVec 64

/-- The part identity, fixed at manufacture (00_scope.md, R120, R194). -/
opaque partIdentity : BitVec 32

/-- The values the nonce source gives out, in order (R98): an unknown permutation of the 64-bit values, because all that R98
says of them is that no two are the same. -/
opaque nonce : Equiv.Perm (BitVec 64)

/-- A free choice between two orders (R123): the value for each reading of `State.freeCount` is open. -/
opaque freeChoice : Nat → Bool

/-- What a 48-bit tick value becomes past its end (R155, R156 give its range and not what follows). -/
opaque ticksPastEnd : Nat → Nat

/-- What a swath's channel volume becomes past 2^64 - 1 vu (R39 gives its range and not what follows). -/
opaque volumePastEnd : Nat → Nat

end Sys2Proof.Config
end

