-- ==== Sys2Proof/Machine/State.lean ====
section
/-!
DEFINITION. The part's state, block by block (00_scope.md, "Block diagram"), and its values right after reset. Plain data.
-/

namespace Sys2Proof.Machine

/-! ## Names -/

/-- R185. -/
inductive Mode where
  | setup | run | standby
  deriving DecidableEq, Repr

/-- Response statuses in the order of R70's table. -/
inductive Status where
  | done | accepted | busy | wrongMode | badArgument | badState | full | notFound | notReady | unknown
  deriving DecidableEq, Repr

/-- The event kinds 1-28 in the order of R71's table. -/
inductive EventKind where
  | slotInserted | slotRemoved | authPassed | authRejected | slotFaulted | levelLow | slotDepleted
  | slotRetired | refillSuspect | duplicateSerial | supplySwitch | channelStarved | channelFed | overdraw
  | unattributed | commitFailed | auditFinished | auditPaused | scheduleMiss | swathIrregular | frameUnmapped
  | linkCheckError | linkState | returnDiscard | modeChanged | historyEvicted | managementDiscard | testEntry
  deriving DecidableEq, Repr

/-- What an event is about (R166). -/
inductive Subject where
  | none
  | slot (i : SlotNo)
  | channel (c : ChannelNo)
  | head (h : HeadNo)
  | entry (e : Fin 64)
  deriving DecidableEq, Repr

/-- Members of an evidence set (R93), in R167's order. -/
inductive Evidence where
  | rollback | foreignLow | diverged | recordIntegrity
  deriving DecidableEq, Repr

/-- An evidence set: a set of at most the four members. -/
structure EvidenceSet where
  rollback : Bool := false
  foreignLow : Bool := false
  diverged : Bool := false
  recordIntegrity : Bool := false
  deriving DecidableEq, Repr

/-! ## Link unit (R56) -/

/-- A MANAGEMENT_RESPONSE (R70). -/
structure Response where
  tag : Byte
  kind : BitVec 16
  status : Status
  results : List Byte
  deriving DecidableEq, Repr

/-- An EVENT_NOTICE (R71): queue count, overrun flag, cause kind and subject. -/
structure Notice where
  count : Nat
  overrun : Bool
  cause : EventKind
  subject : Subject
  deriving DecidableEq, Repr

/-- An entry of the outgoing list (R65). -/
inductive OutFrame where
  | response (r : Response)
  | notice (n : Notice)
  deriving DecidableEq, Repr

/-- The return lane's two sources (R67). -/
inductive Source where
  | headStatus | outgoing
  deriving DecidableEq, Repr

/-- What the return lane is sending: the frame and, with it, its source (R56, R67). -/
inductive LaneFrame where
  | head (f : LinkFrame)
  | own (o : OutFrame)
  deriving DecidableEq, Repr

inductive LinkState where
  | up | lost
  deriving DecidableEq, Repr

/-- R56. `headOut` and `laneOut` are the model's record of the frames that have left the head port and, whole, the return
lane, oldest first (log 3). -/
structure LinkUnit where
  state : LinkState := .up
  failures : Nat := 0
  reception : Option (List Byte) := none
  headBuf : List LinkFrame := []
  outgoing : List OutFrame := []
  lane : Option LaneFrame := none
  lastServed : Source := .outgoing
  bridge : Nat := 40
  headOut : List LinkFrame := []
  laneOut : List LinkFrame := []
  deriving DecidableEq, Repr

/-! ## Swath tracker (R39, R49) -/

structure OpenSwath where
  id : Nat
  openTime : Nat
  elapsed : Nat
  limit : Nat
  volumes : Tbl 8 Nat
  unchanged : Nat
  blanked : Nat
  discarded : Nat
  deriving DecidableEq, Repr

/-- How a swath closed (R49); the close id is present only for MISMATCHED. -/
inductive SwathOutcome where
  | closed
  | mismatched (closeId : Nat)
  | cut
  | expired
  | aborted
  deriving DecidableEq, Repr

structure SwathRecord where
  id : Nat
  outcome : SwathOutcome
  openTime : Nat
  duration : Nat
  volumes : Tbl 8 Nat
  unchanged : Nat
  blanked : Nat
  discarded : Nat
  deriving DecidableEq, Repr

/-- The tracker is OPEN exactly while `current` is present, and so is the swath-open signal (R39, R50). The ring is newest first. -/
structure Tracker where
  current : Option OpenSwath := none
  ring : List SwathRecord := []
  closes : Nat := 0
  limit : Nat := 0
  heldLimit : Option Nat := none
  deriving DecidableEq, Repr

/-! ## Drop meter (R21, R24, R29, R34, R36) -/

/-- A head map entry (R21): no channel is UNMAPPED. -/
structure MapEntry where
  channel : Option ChannelNo := none
  set : SetNo := 0
  deriving DecidableEq, Repr

/-- The three drop volumes of one volume set and waveform, in vu (R24). -/
structure Volumes where
  small : Nat := 0
  medium : Nat := 0
  large : Nat := 0
  deriving DecidableEq, Repr

/-- One copy of the volume table (R24): by volume set, then by waveform. -/
abbrev VolumeTable := Tbl 8 (Tbl 4 Volumes)

/-- The five counters of a channel (R36). -/
structure Counters where
  metered : Nat := 0
  debited : Nat := 0
  overdraw : Nat := 0
  unattributed : Nat := 0
  remainder : Nat := 0
  deriving DecidableEq, Repr

structure Meter where
  headMap : Tbl 32 MapEntry := fill {}
  unmappedReported : Tbl 32 Bool := fill false
  active : VolumeTable := fill (fill {})
  staged : VolumeTable := fill (fill {})
  stagedPending : Bool := false
  counters : Tbl 8 Counters := fill {}
  overdrawReported : Tbl 8 Bool := fill false
  unattributedReported : Tbl 8 Bool := fill false
  deriving DecidableEq, Repr

/-! ## Supply selector (R1, R2) -/

inductive Policy where
  | warn | refuse
  deriving DecidableEq, Repr

inductive ChannelState where
  | unused | starved | feeding
  deriving DecidableEq, Repr

inductive Gate where
  | opened | closed
  deriving DecidableEq, Repr

/-- Low threshold, reserve and commit step (R1, R18). -/
structure Limits where
  low : Nat := 0
  reserve : Nat := 0
  step : Nat := 0
  deriving DecidableEq, Repr

structure Channel where
  ink : Nat := 0
  feed : List SlotNo := []
  policy : Policy := .warn
  limits : Limits := {}
  held : Option Limits := none
  active : Option SlotNo := none
  state : ChannelState := .unused
  gate : Gate := .closed
  selectionHeld : Bool := false
  switched : Bool := false
  deriving DecidableEq, Repr

/-! ## Slot controller (R74, R93, R94, R107, R111) -/

/-- R74: the sensed contact (true: CLOSED), the settling time left, the settled-for-wake mark. -/
structure Presence where
  closed : Bool := false
  timer : Option Nat := none
  wakeMark : Bool := false
  deriving DecidableEq, Repr

inductive RejectReason where
  | badRecord | exhausted | inkType | denied | keyUnknown | keyRevoked | codeMismatch | duplicate
  deriving DecidableEq, Repr

inductive FaultReason where
  | noResponse | commitRefused
  deriving DecidableEq, Repr

inductive ReturnState where
  | genuine | suspect | depleted
  deriving DecidableEq, Repr

/-- The challenge kind with, for RECHALLENGE and WAKE, the return state (R93). -/
inductive Challenge where
  | first
  | rechallenge (ret : ReturnState)
  | wake (ret : ReturnState)
  deriving DecidableEq, Repr

/-- R116: the retirement stage, present only while the slot is RETIRING. -/
inductive RetirementStage where
  | finalWrite | marking
  deriving DecidableEq, Repr

/-- The eleven slot states of R94, each with the fields that are present only in it. -/
inductive SlotState where
  | empty | settling | identifying
  | challenging (c : Challenge)
  | genuine | suspect | depleted
  | retiring (stage : RetirementStage)
  | exhausted
  | rejected (r : RejectReason)
  | faulted (r : FaultReason)
  deriving DecidableEq, Repr

structure Identity where
  serial : Nat
  ink : Nat
  capacity : Nat
  keyId : Nat
  fillDate : Nat
  writeCounter : Nat
  deriving DecidableEq, Repr

/-- R93. The default is the cleared record of R95. -/
structure Slot where
  state : SlotState := .empty
  identity : Option Identity := none
  consumed : Nat := 0
  committed : Nat := 0
  sequence : Nat := 0
  evidence : EvidenceSet := {}
  low : Bool := false
  auditFail : Bool := false
  owedCommit : Bool := false
  lastAuth : Option Nat := none
  deriving DecidableEq, Repr

/-- R107: a key entry; the secret is present in LOADED and REVOKED. -/
inductive KeyEntry where
  | empty
  | loaded (secret : BitVec 128)
  | revoked (secret : BitVec 128)
  deriving DecidableEq, Repr

/-- A write to the key cells, with the tag and kind of the request whose response waits for it (R108, R109). -/
structure KeyWrite where
  key : KeyNo
  entry : KeyEntry
  tag : Byte
  kind : BitVec 16
  deriving DecidableEq, Repr

structure KeyStore where
  cells : Tbl 8 KeyEntry := fill .empty
  image : Tbl 8 KeyEntry := fill .empty
  current : Option KeyWrite := none
  waiting : List KeyWrite := []
  deriving DecidableEq, Repr

/-- R111: a deny range, both ends included. -/
structure DenyRange where
  first : Nat
  last : Nat
  deriving DecidableEq, Repr

/-! ## Cartridge bus controller (R81, R90, R91) -/

inductive TxKind where
  | identify | challenge | usageWrite | markExhausted | recordRead
  deriving DecidableEq, Repr

inductive Requester where
  | slotController | commitUnit | auditUnit
  deriving DecidableEq, Repr

inductive Origin where
  | schedule | other
  deriving DecidableEq, Repr

structure TxEntry where
  slot : SlotNo
  kind : TxKind
  requester : Requester
  origin : Origin
  record : Option RecNo
  deriving DecidableEq, Repr

/-- The payload of a request, supplied when the transaction starts (R72, R81). -/
inductive Payload where
  | plain
  | nonce (n : BitVec 64)
  | usage (consumed : Nat) (writer : BitVec 32) (code : BitVec 64)
  | index (i : RecNo)
  deriving DecidableEq, Repr

/-- What the transaction in flight is doing (R82): a try waits for its answer, or the retry pause runs; with the ms left. -/
inductive TryPhase where
  | awaiting (ms : Nat)
  | pausing (ms : Nat)
  deriving DecidableEq, Repr

structure Flight where
  entry : TxEntry
  payload : Payload
  tryNo : Nat
  withdrawn : Bool
  phase : TryPhase
  deriving DecidableEq, Repr

/-- R85: the owed marks of one tag position; an owed RECORD READ keeps its index. -/
structure Owed where
  challenge : Bool := false
  identify : Bool := false
  usageWrite : Bool := false
  markExhausted : Bool := false
  recordRead : Option RecNo := none
  deriving DecidableEq, Repr

inductive LineCondition where
  | held | running | draining | stopped
  deriving DecidableEq, Repr

structure LineCounters where
  completed : Nat := 0
  failed : Nat := 0
  timeouts : Nat := 0
  waits : Nat := 0
  checks : Nat := 0
  deriving DecidableEq, Repr

structure Line where
  condition : LineCondition := .held
  queue : List TxEntry := []
  flight : Option Flight := none
  owed : Tbl 4 Owed := fill {}
  counters : LineCounters := {}
  deriving DecidableEq, Repr

/-- A frame sent on a cartridge bus line (R72). -/
structure BusFrame where
  line : LineNo
  bytes : List Byte
  deriving DecidableEq, Repr

/-! ## History store (R129, R132, R134) -/

inductive HistoryState where
  | inUse | removed | exhausted
  deriving DecidableEq, Repr

structure HistoryEntry where
  serial : Nat
  ink : Nat
  capacity : Nat
  committed : Nat
  sequence : Nat
  known : Nat
  state : HistoryState
  evidence : EvidenceSet
  lastSeen : Nat
  deriving DecidableEq, Repr

/-- A write to the history cells in progress: the index and the image it carries (R132). -/
structure HistoryWrite where
  index : HistNo
  image : Option HistoryEntry
  deriving DecidableEq, Repr

structure History where
  cells : Tbl 64 (Option HistoryEntry) := fill none
  image : Tbl 64 (Option HistoryEntry) := fill none
  pending : List HistNo := []
  writing : Option HistoryWrite := none
  scanning : Bool := true
  deriving DecidableEq, Repr

/-! ## Audit unit (R139) -/

inductive AuditMode where
  | once | pause | loop
  deriving DecidableEq, Repr

inductive AbortReason where
  | slotGone | slotState | mode | commitPressure
  deriving DecidableEq, Repr

/-- R139: the abort reason is present only in ABORTED. -/
inductive AuditState where
  | idle | running | paused | stopping | done
  | aborted (r : AbortReason)
  deriving DecidableEq, Repr

inductive FailureKind where
  | checkCode | sequence
  deriving DecidableEq, Repr

structure FirstFailure where
  index : RecNo
  kind : FailureKind
  pass : Nat
  time : Nat
  deriving DecidableEq, Repr

inductive PassPosition where
  | index (i : RecNo)
  | check
  | nextPass
  deriving DecidableEq, Repr

/-- The fields present only while the audit is RUNNING, PAUSED or STOPPING (R139). -/
structure AuditPass where
  position : PassPosition := .index 0
  awaited : Option RecNo := none
  view : List (RecNo × Nat) := []
  writeEnded : Bool := false
  deriving DecidableEq, Repr

structure Audit where
  slot : Option SlotNo := none
  mode : AuditMode := .once
  accumulate : Bool := false
  state : AuditState := .idle
  passes : Nat := 0
  failing : List RecNo := []
  firstFailure : Option FirstFailure := none
  pass : Option AuditPass := none
  deriving DecidableEq, Repr

/-! ## Tag schedule (R155, R156) -/

inductive WorkKind where
  | rechallenge | commit | audit
  deriving DecidableEq, Repr

structure SchedEntry where
  enabled : Bool := false
  slot : SlotNo := 0
  kind : WorkKind := .rechallenge
  period : Nat := 0
  offset : Nat := 0
  nextDue : Nat := 0
  missed : Nat := 0
  deriving DecidableEq, Repr

inductive PendingAction where
  | none | run | halt
  deriving DecidableEq, Repr

/-- R156; `sinceTick` is the part's running millisecond clock between two ticks. -/
structure Schedule where
  entries : Tbl 64 SchedEntry := fill {}
  running : Bool := false
  action : PendingAction := .none
  tick : Nat := 0
  sinceTick : Nat := 0
  deriving DecidableEq, Repr

/-! ## Event unit (R166, R168, R169, R175) -/

structure Event where
  time : Nat
  kind : EventKind
  subject : Subject
  detail : Nat
  deriving DecidableEq, Repr

structure Route where
  queue : Bool
  notify : Bool
  deriving DecidableEq, Repr

/-- The eight condition values of a slot (R174). -/
structure SlotConds where
  present : Bool := false
  authentic : Bool := false
  low : Bool := false
  depleted : Bool := false
  rejected : Bool := false
  suspect : Bool := false
  faulted : Bool := false
  auditFail : Bool := false
  deriving DecidableEq, Repr

/-- The three condition values of a channel (R174). -/
structure ChannelConds where
  starved : Bool := false
  overdraw : Bool := false
  switched : Bool := false
  deriving DecidableEq, Repr

/-- R168: after reset QUEUE is yes for every kind and NOTIFY for five of them. -/
def defaultRoutes : Tbl 28 Route :=
  tab fun i => { queue := true, notify := i.val = 3 ∨ i.val = 4 ∨ i.val = 8 ∨ i.val = 9 ∨ i.val = 11 }

structure EventUnit where
  queue : List Event := []
  overrun : Bool := false
  routes : Tbl 28 Route := defaultRoutes
  slotLive : Tbl 16 SlotConds := fill {}
  slotLatch : Tbl 16 SlotConds := fill {}
  channelLive : Tbl 8 ChannelConds := fill {}
  channelLatch : Tbl 8 ChannelConds := fill {}
  deriving DecidableEq, Repr

/-! ## Indicator unit (R177) -/

inductive Scope where
  | slot | channel
  deriving DecidableEq, Repr

/-- The eleven condition kinds in R174's order. -/
inductive Condition where
  | present | authentic | low | depleted | rejected | suspect | faulted | auditFail
  | starved | overdraw | switched
  deriving DecidableEq, Repr

inductive Reduce where
  | any | all
  deriving DecidableEq, Repr

inductive ValueSource where
  | live | latched
  deriving DecidableEq, Repr

structure Operand where
  scope : Scope := .slot
  condition : Condition := .present
  mask : BitVec 16 := 0
  reduce : Reduce := .any
  source : ValueSource := .live
  invert : Bool := false
  deriving DecidableEq, Repr

inductive CombineOp where
  | or | and | xor
  deriving DecidableEq, Repr

inductive IndMode where
  | steady | pulse | extend | toggle
  deriving DecidableEq, Repr

inductive Drive where
  | solid
  | blink (pattern : Fin 8)
  deriving DecidableEq, Repr

inductive Polarity where
  | activeHigh | activeLow
  deriving DecidableEq, Repr

/-- R177: the written fields of an indicator entry; operand 2 is present exactly when combine is not NONE. -/
structure IndFields where
  enabled : Bool := false
  operand1 : Operand := {}
  second : Option (CombineOp × Operand) := none
  mode : IndMode := .steady
  drive : Drive := .solid
  delay : Nat := 0
  polarity : Polarity := .activeHigh
  deriving DecidableEq, Repr

/-- R177, R181: an indicator entry with its running state. The blink phase is whether the line stands in the on-time, and the
ms since the start of the period. -/
structure Indicator where
  fields : IndFields := {}
  result : Bool := false
  active : Bool := false
  timer : Option Nat := none
  hold : Bool := false
  blinkOn : Bool := true
  blinkMs : Nat := 0
  deriving DecidableEq, Repr

/-! ## Management unit (R185) -/

structure Request where
  tag : Byte
  kind : BitVec 16
  args : List Byte
  deriving DecidableEq, Repr

structure Management where
  mode : Mode := .setup
  heldMode : Option Mode := none
  queue : List Request := []
  promised : Nat := 0
  resetPending : Bool := false
  partTime : Nat := 0
  deriving DecidableEq, Repr

/-! ## The part -/

/-- Everything the manual gives the part, the queue of commands, and the model's own fields named in INVENTORY.md. -/
structure State where
  pending : List Instr
  powered : Bool
  link : LinkUnit
  tracker : Tracker
  meter : Meter
  channels : Tbl 8 Channel
  presence : Tbl 16 Presence
  slots : Tbl 16 Slot
  handover : Tbl 16 Bool
  testArm : Option SlotNo
  keys : KeyStore
  deny : List DenyRange
  nonceNext : Nat
  lines : Tbl 4 Line
  busOut : List BusFrame
  history : History
  audit : Audit
  schedule : Schedule
  events : EventUnit
  indicators : Tbl 8 Indicator
  mgmt : Management
  freeCount : Nat
  deriving DecidableEq, Repr

/-- The part raises no stop of its own: no rule of the manual gives one. -/
inductive Fault where
  deriving DecidableEq, Repr

/-- Why a command has no meaning. -/
inductive Refusal where
  /-- Raised by exec for a command that is not modelled yet. Safe: the run stops. -/
  | notModelled (mnemonic : String)
  deriving DecidableEq, Repr

/-- The part right after reset: the reset column of every chapter. Open contacts, straps 0, key and history cells as fresh from
manufacture (log 5, DESIGN CHOICE). -/
def State.reset : State :=
  { pending := [], powered := true, link := {}, tracker := {}, meter := {}, channels := fill {}, presence := fill {},
    slots := fill {}, handover := fill false, testArm := none, keys := {}, deny := [], nonceNext := 0, lines := fill {},
    busOut := [], history := {}, audit := {}, schedule := {}, events := {}, indicators := fill {}, mgmt := {}, freeCount := 0 }

end Sys2Proof.Machine
end

