-- ==== Sys2Proof/Machine/Flags.lean ====
section
/-!
DEFINITION. Evidence sets (R93), the condition values of a record (R174), the latches (R175), and what an indicator makes of
them (R178-R181).
-/

namespace Sys2Proof.Machine

/-! ## Evidence sets -/

def EvidenceSet.has (s : EvidenceSet) : Evidence → Bool
  | .rollback => s.rollback
  | .foreignLow => s.foreignLow
  | .diverged => s.diverged
  | .recordIntegrity => s.recordIntegrity

def EvidenceSet.insert (s : EvidenceSet) : Evidence → EvidenceSet
  | .rollback => { s with rollback := true }
  | .foreignLow => { s with foreignLow := true }
  | .diverged => { s with diverged := true }
  | .recordIntegrity => { s with recordIntegrity := true }

def EvidenceSet.isEmpty (s : EvidenceSet) : Bool := !(s.rollback || s.foreignLow || s.diverged || s.recordIntegrity)

/-- The members in R167's order. That several members carried by a history entry are handed back, and raise REFILL_SUSPECT, in this
order is the model's choice: R100 and R138 give none (log 9). -/
def EvidenceSet.members (s : EvidenceSet) : List Evidence :=
  [Evidence.rollback, .foreignLow, .diverged, .recordIntegrity].filter s.has

/-! ## Slot states (R94, R116, R140) -/

/-- GENUINE, SUSPECT, DEPLETED and RETIRING are the authenticated states (R94). -/
def SlotState.authenticated : SlotState → Bool
  | .genuine | .suspect | .depleted | .retiring _ => true
  | .empty | .settling | .identifying | .challenging _ | .exhausted | .rejected _ | .faulted _ => false

/-- CHALLENGING with kind RECHALLENGE or WAKE. -/
def SlotState.rechallenging : SlotState → Bool
  | .challenging (.rechallenge _) | .challenging (.wake _) => true
  | .challenging .first | .empty | .settling | .identifying | .genuine | .suspect | .depleted | .retiring _ | .exhausted
  | .rejected _ | .faulted _ => false

def SlotState.isChallenging : SlotState → Bool
  | .challenging _ => true
  | .empty | .settling | .identifying | .genuine | .suspect | .depleted | .retiring _ | .exhausted | .rejected _ | .faulted _ => false

/-- GENUINE, SUSPECT or DEPLETED: what R104 re-challenges and R160 calls eligible. -/
def SlotState.inService : SlotState → Bool
  | .genuine | .suspect | .depleted => true
  | .empty | .settling | .identifying | .challenging _ | .retiring _ | .exhausted | .rejected _ | .faulted _ => false

/-- R116. -/
def SlotState.commitEligible (st : SlotState) : Bool := st.authenticated || st.rechallenging

/-- R140. -/
def SlotState.auditEligible (st : SlotState) : Bool := st.inService || st.rechallenging

/-- A slot that is not EMPTY or SETTLING (R174 PRESENT). -/
def SlotState.present : SlotState → Bool
  | .empty | .settling => false
  | .identifying | .challenging _ | .genuine | .suspect | .depleted | .retiring _ | .exhausted | .rejected _ | .faulted _ => true

/-- The return state of a re-challenge or wake challenge. -/
def SlotState.returning : SlotState → Option ReturnState
  | .challenging (.rechallenge r) | .challenging (.wake r) => some r
  | .challenging .first | .empty | .settling | .identifying | .genuine | .suspect | .depleted | .retiring _ | .exhausted
  | .rejected _ | .faulted _ => none

/-- A challenge with its return state replaced; a first challenge has none. -/
def Challenge.withReturn : Challenge → ReturnState → Challenge
  | .first, _ => .first
  | .rechallenge _, r => .rechallenge r
  | .wake _, r => .wake r

def ReturnState.state : ReturnState → SlotState
  | .genuine => .genuine
  | .suspect => .suspect
  | .depleted => .depleted

/-- The return state of a challenge placed on a slot in service (R104, R106). -/
def SlotState.asReturn : SlotState → Option ReturnState
  | .genuine => some .genuine
  | .suspect => some .suspect
  | .depleted => some .depleted
  | .empty | .settling | .identifying | .challenging _ | .retiring _ | .exhausted | .rejected _ | .faulted _ => none

/-- R93: the slot holds its serial's history entry. -/
def Slot.holds (sl : Slot) : Bool := sl.lastAuth.isSome

/-- The slot's serial, if it has an identity. -/
def Slot.serial? (sl : Slot) : Option Nat := sl.identity.map (·.serial)

/-- The capacity of the slot's identity; 0 without one. -/
def Slot.capacity (sl : Slot) : Nat := (sl.identity.map (·.capacity)).getD 0

/-- Capacity minus consumed (01, "Remaining ink"). -/
def Slot.remaining (sl : Slot) : Nat := sl.capacity - sl.consumed

/-! ## Condition values (R174) -/

def Slot.conds (sl : Slot) : SlotConds :=
  { present := sl.state.present
    authentic := sl.state.authenticated || sl.state.rechallenging
    low := sl.low
    depleted := match sl.state with
      | .depleted | .retiring _ | .exhausted => true
      | .challenging (.rechallenge .depleted) | .challenging (.wake .depleted) => true
      | _ => false
    rejected := match sl.state with
      | .rejected _ => true
      | _ => false
    suspect := !sl.evidence.isEmpty
    faulted := match sl.state with
      | .faulted _ => true
      | _ => false
    auditFail := sl.auditFail }

/-- OVERDRAW is the drop meter's, STARVED and SWITCHED the supply selector's. -/
def channelConds (ch : Channel) (k : Counters) : ChannelConds :=
  { starved := ch.state = .starved, overdraw := k.overdraw ≠ 0, switched := ch.switched }

/-! ## Latches (R175) -/

/-- CATCH_FALL for PRESENT and AUTHENTIC, CATCH_RISE for the others. -/
def SlotConds.latch (old live : SlotConds) : SlotConds :=
  { present := old.present && live.present
    authentic := old.authentic && live.authentic
    low := old.low || live.low
    depleted := old.depleted || live.depleted
    rejected := old.rejected || live.rejected
    suspect := old.suspect || live.suspect
    faulted := old.faulted || live.faulted
    auditFail := old.auditFail || live.auditFail }

/-- Every channel condition is CATCH_RISE. -/
def ChannelConds.latch (old live : ChannelConds) : ChannelConds :=
  { starved := old.starved || live.starved
    overdraw := old.overdraw || live.overdraw
    switched := old.switched || live.switched }

/-! ## Operands and results of indicators (R178) -/

/-- The scope a condition kind belongs to. -/
def Condition.scope : Condition → Scope
  | .present | .authentic | .low | .depleted | .rejected | .suspect | .faulted | .auditFail => .slot
  | .starved | .overdraw | .switched => .channel

def SlotConds.value (v : SlotConds) : Condition → Bool
  | .present => v.present
  | .authentic => v.authentic
  | .low => v.low
  | .depleted => v.depleted
  | .rejected => v.rejected
  | .suspect => v.suspect
  | .faulted => v.faulted
  | .auditFail => v.auditFail
  | .starved | .overdraw | .switched => false

def ChannelConds.value (v : ChannelConds) : Condition → Bool
  | .starved => v.starved
  | .overdraw => v.overdraw
  | .switched => v.switched
  | .present | .authentic | .low | .depleted | .rejected | .suspect | .faulted | .auditFail => false

/-- The value of a condition kind for member `n`, as its source says. -/
def EventUnit.value (u : EventUnit) (src : ValueSource) (k : Condition) (n : Nat) : Bool :=
  match k.scope with
  | .slot =>
    if h : n < 16 then
      (match src with
        | .live => nth u.slotLive ⟨n, h⟩
        | .latched => nth u.slotLatch ⟨n, h⟩).value k
    else false
  | .channel =>
    if h : n < 8 then
      (match src with
        | .live => nth u.channelLive ⟨n, h⟩
        | .latched => nth u.channelLatch ⟨n, h⟩).value k
    else false

/-- The members of a mask. -/
def maskMembers (m : BitVec 16) : List Nat := (List.range 16).filter (fun n => m.getLsbD n)

/-- R178: either reduce gives false over an empty mask, before the inversion. -/
def Operand.eval (o : Operand) (u : EventUnit) : Bool :=
  let ms := maskMembers o.mask
  let v := match o.reduce with
    | .any => ms.any (u.value o.source o.condition)
    | .all => !ms.isEmpty && ms.all (u.value o.source o.condition)
  v != o.invert

def CombineOp.apply : CombineOp → Bool → Bool → Bool
  | .or, a, b => a || b
  | .and, a, b => a && b
  | .xor, a, b => a != b

/-- The result of an indicator entry over the condition values. -/
def IndFields.eval (f : IndFields) (u : EventUnit) : Bool :=
  match f.second with
  | none => f.operand1.eval u
  | some (op, o2) => op.apply (f.operand1.eval u) (o2.eval u)

/-! ## Indicator modes (R179, R180, R181) -/

/-- The output becomes ACTIVE; the blink phase starts afresh only if it was INACTIVE (R181). -/
def Indicator.activate (d : Indicator) : Indicator :=
  if d.active then d else { d with active := true, blinkOn := true, blinkMs := 0 }

/-- The output becomes INACTIVE. -/
def Indicator.deactivate (d : Indicator) : Indicator :=
  { d with active := false, blinkOn := true, blinkMs := 0 }

/-- A rise taken by the entry's mode. -/
def Indicator.rise (d : Indicator) : Indicator :=
  match d.fields.mode with
  | .steady => d.activate
  | .toggle => if d.active then d.deactivate else d.activate
  | .pulse =>
    if d.fields.delay = 0 then d
    else if d.fields.delay = 255 then { d.activate with hold := true }
    else { d.activate with timer := some (d.fields.delay * 50) }
  | .extend => { d.activate with timer := none, hold := false }

/-- A fall taken by the entry's mode. -/
def Indicator.fall (d : Indicator) : Indicator :=
  match d.fields.mode with
  | .steady => d.deactivate
  | .toggle => d
  | .pulse => { d.deactivate with timer := none, hold := false }
  | .extend =>
    if d.fields.delay = 0 then d.deactivate
    else if d.fields.delay = 255 then { d with hold := true }
    else { d with timer := some (d.fields.delay * 50) }

/-- R178: an enabled indicator is evaluated; a changed result is a rise or a fall. -/
def Indicator.evaluate (u : EventUnit) (d : Indicator) : Indicator :=
  if d.fields.enabled then
    let r := d.fields.eval u
    if r = d.result then d
    else if r then Indicator.rise { d with result := true }
    else Indicator.fall { d with result := false }
  else d

/-- R183. -/
def Indicator.release (d : Indicator) : Indicator :=
  match d.fields.mode with
  | .steady => d
  | .pulse => { d.deactivate with timer := none, hold := false }
  | .extend => if d.result then d else { d.deactivate with timer := none, hold := false }
  | .toggle => d.deactivate

/-- R181: the blink patterns, period and on-time in ms. -/
def blinkPattern (p : Fin 8) : Nat × Nat :=
  nth (#v[(1000, 500), (1000, 250), (500, 250), (250, 125), (2000, 1000), (1000, 100), (2000, 200), (3000, 1500)] : Tbl 8 (Nat × Nat)) p

/-- R181: whether the line stands at its active level. -/
def Indicator.lit (d : Indicator) : Bool :=
  d.active && match d.fields.drive with
    | .solid => true
    | .blink _ => d.blinkOn

/-- R181: whether the indicator line is high. -/
def Indicator.lineHigh (d : Indicator) : Bool :=
  match d.fields.polarity with
  | .activeHigh => d.lit
  | .activeLow => !d.lit

end Sys2Proof.Machine
end

