-- ==== Sys2Proof/Machine/Operands.lean ====
section
/-!
DEFINITION. Argument bytes and result bytes of requests (R70, log 12), the numbers of enumerated values, event details (R167),
the frames the part sends of its own (R68, R70, R71, R72) and the payloads of tag answers (R72, R73).
-/

namespace Sys2Proof.Machine

/-! ## Reading arguments -/

/-- Numbers of fixed widths that fill the bytes exactly. -/
def fields : List Nat → List Byte → Option (List Nat)
  | [], [] => some []
  | [], _ :: _ => none
  | w :: ws, bs =>
    if w ≤ bs.length then (fields ws (bs.drop w)).map (fun vs => ofBe (bs.take w) :: vs) else none

/-- A number within a range 0 to n - 1. -/
def asFin (n v : Nat) : Option (Fin n) := if h : v < n then some ⟨v, h⟩ else none

/-- A flag (R70): 0 or 1. -/
def asFlag : Nat → Option Bool
  | 0 => some false
  | 1 => some true
  | _ => none

def asPolicy : Nat → Option Policy
  | 0 => some .warn
  | 1 => some .refuse
  | _ => none

def asMode : Nat → Option Mode
  | 0 => some .setup
  | 1 => some .run
  | 2 => some .standby
  | _ => none

def asAuditMode : Nat → Option AuditMode
  | 0 => some .once
  | 1 => some .pause
  | 2 => some .loop
  | _ => none

def asWorkKind : Nat → Option WorkKind
  | 0 => some .rechallenge
  | 1 => some .commit
  | 2 => some .audit
  | _ => none

/-- R172: a subject type with a number in the type's range. -/
def asSubject : Nat → Nat → Option Subject
  | 0, 0 => some .none
  | 1, n => (asFin 16 n).map .slot
  | 2, n => (asFin 8 n).map .channel
  | 3, n => (asFin 32 n).map .head
  | 4, n => (asFin 64 n).map .entry
  | _, _ => none

def asCondition : Nat → Option Condition
  | 0 => some .present
  | 1 => some .authentic
  | 2 => some .low
  | 3 => some .depleted
  | 4 => some .rejected
  | 5 => some .suspect
  | 6 => some .faulted
  | 7 => some .auditFail
  | 8 => some .starved
  | 9 => some .overdraw
  | 10 => some .switched
  | _ => none

/-! ## The numbers of enumerated values (R70, R71, R94) -/

def flagNo (b : Bool) : Nat := if b then 1 else 0

def Status.code : Status → Nat
  | .done => 0
  | .accepted => 1
  | .busy => 2
  | .wrongMode => 3
  | .badArgument => 4
  | .badState => 5
  | .full => 6
  | .notFound => 7
  | .notReady => 8
  | .unknown => 9

/-- R71's number less one. -/
def EventKind.idx : EventKind → Fin 28
  | .slotInserted => 0
  | .slotRemoved => 1
  | .authPassed => 2
  | .authRejected => 3
  | .slotFaulted => 4
  | .levelLow => 5
  | .slotDepleted => 6
  | .slotRetired => 7
  | .refillSuspect => 8
  | .duplicateSerial => 9
  | .supplySwitch => 10
  | .channelStarved => 11
  | .channelFed => 12
  | .overdraw => 13
  | .unattributed => 14
  | .commitFailed => 15
  | .auditFinished => 16
  | .auditPaused => 17
  | .scheduleMiss => 18
  | .swathIrregular => 19
  | .frameUnmapped => 20
  | .linkCheckError => 21
  | .linkState => 22
  | .returnDiscard => 23
  | .modeChanged => 24
  | .historyEvicted => 25
  | .managementDiscard => 26
  | .testEntry => 27

def EventKind.no (k : EventKind) : Nat := k.idx.val + 1

def Subject.typeNo : Subject → Nat
  | .none => 0
  | .slot _ => 1
  | .channel _ => 2
  | .head _ => 3
  | .entry _ => 4

def Subject.no : Subject → Nat
  | .none => 0
  | .slot i => i.val
  | .channel c => c.val
  | .head h => h.val
  | .entry e => e.val

def Mode.no : Mode → Nat
  | .setup => 0
  | .run => 1
  | .standby => 2

def Policy.no : Policy → Nat
  | .warn => 0
  | .refuse => 1

def ChannelState.no : ChannelState → Nat
  | .unused => 0
  | .starved => 1
  | .feeding => 2

def Gate.no : Gate → Nat
  | .opened => 0
  | .closed => 1

/-- R94's order. -/
def SlotState.no : SlotState → Nat
  | .empty => 0
  | .settling => 1
  | .identifying => 2
  | .challenging _ => 3
  | .genuine => 4
  | .suspect => 5
  | .depleted => 6
  | .retiring _ => 7
  | .exhausted => 8
  | .rejected _ => 9
  | .faulted _ => 10

def RejectReason.no : RejectReason → Nat
  | .badRecord => 0
  | .exhausted => 1
  | .inkType => 2
  | .denied => 3
  | .keyUnknown => 4
  | .keyRevoked => 5
  | .codeMismatch => 6
  | .duplicate => 7

def FaultReason.no : FaultReason → Nat
  | .noResponse => 0
  | .commitRefused => 1

def Challenge.no : Challenge → Nat
  | .first => 0
  | .rechallenge _ => 1
  | .wake _ => 2

def ReturnState.no : ReturnState → Nat
  | .genuine => 0
  | .suspect => 1
  | .depleted => 2

def Evidence.no : Evidence → Nat
  | .rollback => 0
  | .foreignLow => 1
  | .diverged => 2
  | .recordIntegrity => 3

def EvidenceSet.mask (e : EvidenceSet) : Nat :=
  flagNo e.rollback + 2 * flagNo e.foreignLow + 4 * flagNo e.diverged + 8 * flagNo e.recordIntegrity

def KeyEntry.no : KeyEntry → Nat
  | .empty => 0
  | .loaded _ => 1
  | .revoked _ => 2

def TxKind.no : TxKind → Nat
  | .identify => 0
  | .challenge => 1
  | .usageWrite => 2
  | .markExhausted => 3
  | .recordRead => 4

/-- The kind as the request frame codes it (R72). -/
def TxKind.wireNo (k : TxKind) : Nat := k.no + 1

def Origin.no : Origin → Nat
  | .schedule => 0
  | .other => 1

def LineCondition.no : LineCondition → Nat
  | .held => 0
  | .running => 1
  | .draining => 2
  | .stopped => 3

def Owed.mask (o : Owed) : Nat :=
  flagNo o.identify + 2 * flagNo o.challenge + 4 * flagNo o.usageWrite + 8 * flagNo o.markExhausted + 16 * flagNo o.recordRead.isSome

def HistoryState.no : HistoryState → Nat
  | .inUse => 0
  | .removed => 1
  | .exhausted => 2

def AuditMode.no : AuditMode → Nat
  | .once => 0
  | .pause => 1
  | .loop => 2

def AbortReason.no : AbortReason → Nat
  | .slotGone => 0
  | .slotState => 1
  | .mode => 2
  | .commitPressure => 3

def AuditState.no : AuditState → Nat
  | .idle => 0
  | .running => 1
  | .paused => 2
  | .stopping => 3
  | .done => 4
  | .aborted _ => 5

def FailureKind.no : FailureKind → Nat
  | .checkCode => 0
  | .sequence => 1

/-- Indices 0-7, then CHECK and NEXT_PASS (log 12). -/
def PassPosition.no : PassPosition → Nat
  | .index i => i.val
  | .check => 8
  | .nextPass => 9

def WorkKind.no : WorkKind → Nat
  | .rechallenge => 0
  | .commit => 1
  | .audit => 2

def PendingAction.no : PendingAction → Nat
  | .none => 0
  | .run => 1
  | .halt => 2

def SwathOutcome.no : SwathOutcome → Nat
  | .closed => 0
  | .mismatched _ => 1
  | .cut => 2
  | .expired => 3
  | .aborted => 4

def SwathOutcome.closeId : SwathOutcome → Option Nat
  | .mismatched n => some n
  | .closed | .cut | .expired | .aborted => none

def LinkState.no : LinkState → Nat
  | .up => 0
  | .lost => 1

def Condition.no : Condition → Nat
  | .present => 0
  | .authentic => 1
  | .low => 2
  | .depleted => 3
  | .rejected => 4
  | .suspect => 5
  | .faulted => 6
  | .auditFail => 7
  | .starved => 8
  | .overdraw => 9
  | .switched => 10

def CombineOp.no : CombineOp → Nat
  | .or => 1
  | .and => 2
  | .xor => 3

def IndMode.no : IndMode → Nat
  | .steady => 0
  | .pulse => 1
  | .extend => 2
  | .toggle => 3

/-! ## Writing results (R70) -/

def encFlag (b : Bool) : List Byte := be 1 (flagNo b)

def encOpt {α : Type} (f : α → List Byte) : Option α → List Byte
  | none => be 1 0
  | some x => be 1 1 ++ f x

def encList {α : Type} (f : α → List Byte) (xs : List α) : List Byte := be 1 xs.length ++ xs.flatMap f

/-- Every entry of a table in order. A table of fixed size has no count byte in front: the model's reading, because R70 gives one to
a list and does not say whether such a table is one (log 12). -/
def encTable {n : Nat} {α : Type} (f : α → List Byte) (t : Tbl n α) : List Byte := (List.finRange n).flatMap (fun i => f (nth t i))

/-- A mask of `n` members, member `i` in bit `i`. -/
def maskNo (n : Nat) (f : Fin n → Bool) : Nat := (List.finRange n).foldl (fun a i => if f i then a + 2 ^ i.val else a) 0

/-! ## Event details (R167) -/

/-- A slot or, where there is none, 255. -/
def slotOr255 : Option SlotNo → Nat
  | some i => i.val
  | none => 255

def AuditState.endingNo : AuditState → Nat
  | .aborted r => r.no + 1
  | .idle | .running | .paused | .stopping | .done => 0

/-! ## The part's own link frames (R68, R70, R71) -/

def Response.frame (bridge : Nat) (r : Response) : LinkFrame :=
  { kind := 0x94#8, hdr := BitVec.ofNat 8 bridge, body := r.tag :: be 2 r.kind.toNat ++ be 1 r.status.code ++ r.results }

def Notice.frame (bridge : Nat) (n : Notice) : LinkFrame :=
  { kind := 0x95#8, hdr := BitVec.ofNat 8 bridge,
    body := be 2 n.count ++ encFlag n.overrun ++ be 1 n.cause.no ++ be 1 n.subject.typeNo ++ be 1 n.subject.no }

def OutFrame.frame (bridge : Nat) : OutFrame → LinkFrame
  | .response r => r.frame bridge
  | .notice n => n.frame bridge

/-- What leaves the return lane. -/
def LaneFrame.frame (bridge : Nat) : LaneFrame → LinkFrame
  | .head f => f
  | .own o => o.frame bridge

/-! ## Cartridge bus frames (R72, R73) -/

/-- Byte 0 of a request: tag position and kind. -/
def TxEntry.byte0 (e : TxEntry) : Byte := BitVec.ofNat 8 (64 * (posOf e.slot).val + e.kind.wireNo)

def Payload.bytes : Payload → List Byte
  | .plain => []
  | .nonce n => be 8 n.toNat
  | .usage c w code => be 4 c ++ be 4 w.toNat ++ be 8 code.toNat
  | .index i => be 1 i.val

/-- The request frame of a transaction, the same in every try (R81). -/
def Flight.request (fl : Flight) : List Byte := busRequest fl.entry.byte0 fl.payload.bytes

/-- What a complete answer makes of its try (R72, R82). -/
inductive Verdict where
  | ok (payload : List Byte)
  | refused
  | neverWritten
  | wait
  | check
  deriving DecidableEq, Repr

/-- The payload length that goes with status OK. -/
def TxKind.okLength : TxKind → Nat
  | .identify => 19
  | .challenge => 20
  | .usageWrite => 4
  | .markExhausted => 0
  | .recordRead => 20

/-- R72's checks of an answer against its request. -/
def TxEntry.judge (e : TxEntry) (a : AnswerFrame) : Verdict :=
  if a.checkOk = false ∨ a.echo ≠ e.byte0 then .check
  else if a.status = 0#8 then (if a.payload.length = e.kind.okLength then .ok a.payload else .check)
  else if a.payload ≠ [] then .check
  else if a.status = 1#8 then .wait
  else if a.status = 2#8 then (if e.kind = .usageWrite then .refused else .check)
  else if a.status = 3#8 then (if e.kind = .recordRead then .neverWritten else .check)
  else .check

/-- The number in bytes `i` to `i + n - 1` of a payload. -/
def part (i n : Nat) (bs : List Byte) : Nat := ofBe ((bs.drop i).take n)

/-- The identity of an IDENTIFY answer (R72, R73): identity block, marker, write counter. Each field takes what its bytes hold, ink
type 0 included (log 19). -/
def identityOf (bs : List Byte) : Identity :=
  { serial := part 0 6 bs, ink := part 6 1 bs, capacity := part 7 4 bs, keyId := part 11 1 bs, fillDate := part 12 2 bs,
    writeCounter := part 15 4 bs }

/-- The exhausted marker of an IDENTIFY answer: any value other than 0 is present. -/
def markerOf (bs : List Byte) : Bool := part 14 1 bs ≠ 0

end Sys2Proof.Machine
end

