-- ==== Sys2Proof/Machine/Ops.lean ====
section
/-!
DEFINITION. One record changed at a time; raising an event (R166-R170); condition reports and indicators (R174, R175, R178); the
history table and its writes (R129-R132); the return lane (R65-R67); serving a request (R191-R193); resets (R185, R196).
-/

namespace Sys2Proof.Machine

/-! ## Records by number -/

def State.slot (s : State) (i : SlotNo) : Slot := nth s.slots i
def State.chan (s : State) (c : ChannelNo) : Channel := nth s.channels c
def State.line (s : State) (l : LineNo) : Line := nth s.lines l
def State.counter (s : State) (c : ChannelNo) : Counters := nth s.meter.counters c

def State.setSlot (s : State) (i : SlotNo) (x : Slot) : State := { s with slots := upd s.slots i x }
def State.setChan (s : State) (c : ChannelNo) (x : Channel) : State := { s with channels := upd s.channels c x }
def State.setLine (s : State) (l : LineNo) (x : Line) : State := { s with lines := upd s.lines l x }
def State.setPresence (s : State) (i : SlotNo) (x : Presence) : State := { s with presence := upd s.presence i x }
def State.setCounters (s : State) (c : ChannelNo) (x : Counters) : State :=
  { s with meter := { s.meter with counters := upd s.meter.counters c x } }
def State.setHandover (s : State) (i : SlotNo) (b : Bool) : State := { s with handover := upd s.handover i b }
def State.setAudit (s : State) (a : Audit) : State := { s with audit := a }
def State.setIndicator (s : State) (i : IndNo) (d : Indicator) : State := { s with indicators := upd s.indicators i d }

/-- The slot record with a new state. -/
def State.setSlotState (s : State) (i : SlotNo) (st : SlotState) : State := s.setSlot i { s.slot i with state := st }

/-- The swath-open signal (R50). -/
def State.swathOpen (s : State) : Bool := s.tracker.current.isSome

/-- A count that stops at 2^32 - 1. -/
def sat32 (n : Nat) : Nat := min n (2 ^ 32 - 1)

/-- A tick value, open past 2^48 - 1 (log 11). -/
def tick48 (n : Nat) : Nat := if n < 2 ^ 48 then n else Config.ticksPastEnd n % 2 ^ 48

/-- A swath's channel volume, open past 2^64 - 1 (log 11). -/
def volume64 (n : Nat) : Nat := if n < 2 ^ 64 then n else Config.volumePastEnd n % 2 ^ 64

/-! ## Events (R166, R168-R170) -/

/-- R66: the waiting notice is replaced where it stands, or a new one joins the tail. -/
def placeNotice (n : Notice) : List OutFrame → List OutFrame
  | [] => [.notice n]
  | .notice _ :: rest => .notice n :: rest
  | .response r :: rest => .response r :: placeNotice n rest

/-- R170: a notice request carries the queue as it stands. -/
def requestNotice (k : EventKind) (subj : Subject) (s : State) : State :=
  let n : Notice := { count := s.events.queue.length, overrun := s.events.overrun, cause := k, subject := subj }
  { s with link := { s.link with outgoing := placeNotice n s.link.outgoing } }

/-- R169. -/
def EventUnit.enqueue (u : EventUnit) (e : Event) : EventUnit :=
  if u.queue.length < 256 then { u with queue := u.queue ++ [e] }
  else { u with queue := u.queue.tail ++ [e], overrun := true }

/-- An event, taken by its kind's route. -/
def raise (k : EventKind) (subj : Subject) (d : Nat) (s : State) : State :=
  let r := nth s.events.routes k.idx
  let ask := (r.queue && s.events.queue.isEmpty) || r.notify
  let e : Event := { time := s.mgmt.partTime, kind := k, subject := subj, detail := d }
  let t := if r.queue then { s with events := s.events.enqueue e } else s
  if ask then requestNotice k subj t else t

/-! ## Condition reports (R174, R175, R178) -/

/-- Every enabled indicator is evaluated. -/
def evaluateAll (s : State) : State := { s with indicators := tab fun i => (nth s.indicators i).evaluate s.events }

/-- A slot's report: its values as the record stands, if they changed. The operations make it after each change of a slot record
that can change one of them (R174). -/
def reportSlot (s : State) (i : SlotNo) : State :=
  let v := (s.slot i).conds
  if v = nth s.events.slotLive i then s
  else
    evaluateAll { s with events :=
      { s.events with slotLive := upd s.events.slotLive i v
                      slotLatch := upd s.events.slotLatch i ((nth s.events.slotLatch i).latch v) } }

/-- A channel record's report with the values `v`, if they changed. -/
def reportChannelValues (s : State) (c : ChannelNo) (v : ChannelConds) : State :=
  if v = nth s.events.channelLive c then s
  else
    evaluateAll { s with events :=
      { s.events with channelLive := upd s.events.channelLive c v
                      channelLatch := upd s.events.channelLatch c ((nth s.events.channelLatch c).latch v) } }

/-- The drop meter's report of a channel, after a change of its counters (R174): OVERDRAW. -/
def reportMeter (s : State) (c : ChannelNo) : State :=
  reportChannelValues s c
    { nth s.events.channelLive c with overdraw := (channelConds (s.chan c) (s.counter c)).overdraw }

/-- The supply selector's report of a channel, after a change of its record (R174): STARVED and SWITCHED together. -/
def reportSupply (s : State) (c : ChannelNo) : State :=
  let v := channelConds (s.chan c) (s.counter c)
  reportChannelValues s c { nth s.events.channelLive c with starved := v.starved, switched := v.switched }

/-- The reports of both owners of a channel's conditions. -/
def reportChannel (s : State) (c : ChannelNo) : State := reportSupply (reportMeter s c) c

/-- Every record as it stands at the end of a step. Each change has been reported where it was made, so that this changes nothing
in a state whose live values were true before the step. -/
def reportConditions (s : State) : State :=
  (List.finRange 8).foldl reportChannel ((List.finRange 16).foldl reportSlot s)

/-! ## History (R129-R132) -/

def History.entry (h : History) (n : HistNo) : Option HistoryEntry := nth h.image n

/-- The place of a serial's entry. -/
def History.find (h : History) (serial : Nat) : Option HistNo :=
  (List.finRange 64).find? (fun n => match h.entry n with
    | some e => e.serial == serial
    | none => false)

/-- An update of one place of the image, with its pending write. -/
def History.put (h : History) (n : HistNo) (e : Option HistoryEntry) : History :=
  { h with image := upd h.image n e, pending := if n ∈ h.pending then h.pending else h.pending ++ [n] }

/-- A slot other than `but` holds the entry of the serial (R93). -/
def heldBeside (s : State) (serial : Nat) (but : Option SlotNo) : Bool :=
  (List.finRange 16).any (fun j => some j != but && (s.slot j).holds && (s.slot j).serial? == some serial)

/-- R130: an update of the serial's entry, if there is one. -/
def updateEntry (serial : Nat) (f : HistoryEntry → HistoryEntry) (s : State) : State :=
  match s.history.find serial with
  | none => s
  | some n =>
    match s.history.entry n with
    | none => s
    | some e => { s with history := s.history.put n (some { f e with lastSeen := s.mgmt.partTime }) }

/-- An update caused by slot `i`, which must hold its entry. -/
def updateHeld (i : SlotNo) (f : Slot → HistoryEntry → HistoryEntry) (s : State) : State :=
  let sl := s.slot i
  match sl.serial? with
  | some serial => if sl.holds then updateEntry serial (f sl) s else s
  | none => s

/-- R130: known never falls. -/
def HistoryEntry.learn (e : HistoryEntry) (consumed : Nat) : HistoryEntry := { e with known := max e.known consumed }

/-- R130: removal or SLOT RETRY of a holding slot. -/
def historyRemoval (i : SlotNo) (s : State) : State :=
  updateHeld i (fun sl e =>
    let e1 := e.learn sl.consumed
    if e.state = .exhausted ∨ heldBeside s e.serial (some i) then e1 else { e1 with state := .removed }) s

/-- R130: entry of a holding slot to FAULTED. -/
def historyFault (i : SlotNo) (s : State) : State := updateHeld i (fun sl e => e.learn sl.consumed) s

/-- R130: commit success, from the slot record as R121 has set it. -/
def historyCommit (i : SlotNo) (s : State) : State :=
  updateHeld i (fun sl e =>
    let e1 := { e with committed := sl.committed, sequence := sl.sequence }
    let e2 := e1.learn sl.consumed
    if e.state = .exhausted then e2 else { e2 with state := .inUse }) s

/-- R130: retirement start. -/
def historyRetire (i : SlotNo) (s : State) : State := updateHeld i (fun _ e => { e with state := .exhausted }) s

/-- R130: evidence added; a member already held changes nothing. -/
def historyEvidence (serial : Nat) (m : Evidence) (s : State) : State :=
  match s.history.find serial with
  | none => s
  | some n =>
    match s.history.entry n with
    | none => s
    | some e => if e.evidence.has m then s else updateEntry serial (fun e => { e with evidence := e.evidence.insert m }) s

/-- R131: the free place with the lowest index. -/
def History.freePlace (h : History) : Option HistNo := (List.finRange 64).find? (fun n => (h.entry n).isNone)

/-- R131: among the entries that no slot holds, the one seen longest ago, ties to the lowest index. -/
def oldestUnheld (s : State) : Option HistNo :=
  (List.finRange 64).foldl (fun best n =>
    match s.history.entry n with
    | none => best
    | some e =>
      if heldBeside s e.serial none then best
      else match best with
        | none => some n
        | some b =>
          match s.history.entry b with
          | none => some n
          | some eb => if e.lastSeen < eb.lastSeen then some n else best) none

/-- R130, R131: the first-pass update for a cartridge with consumed amount `consumed`. -/
def historyFirstPass (id : Identity) (q c consumed : Nat) (s : State) : State :=
  match s.history.find id.serial with
  | some _ =>
    updateEntry id.serial (fun e =>
      ({ e with state := .inUse, ink := id.ink, capacity := id.capacity, committed := c, sequence := q }).learn consumed) s
  | none =>
    let e : HistoryEntry :=
      { serial := id.serial, ink := id.ink, capacity := id.capacity, committed := c, sequence := q, known := consumed,
        state := .inUse, evidence := {}, lastSeen := s.mgmt.partTime }
    match s.history.freePlace with
    | some n => { s with history := s.history.put n (some e) }
    | none =>
      match oldestUnheld s with
      | none => s
      | some n =>
        let old := ((s.history.entry n).map (·.serial)).getD 0
        raise .historyEvicted (.entry n) (old % 2 ^ 32) { s with history := s.history.put n (some e) }

/-- R132: when nothing is being written, the write of the oldest pending index starts. -/
def kickHistory (s : State) : State :=
  if s.history.scanning || s.history.writing.isSome then s
  else match s.history.pending with
    | [] => s
    | n :: rest =>
      { s with history := { s.history with pending := rest, writing := some { index := n, image := s.history.entry n } } }

/-! ## The return lane (R67) -/

/-- R67: an idle lane takes the oldest frame of the source not served last. -/
def LinkUnit.arbitrate (u : LinkUnit) : LinkUnit :=
  match u.lane with
  | some _ => u
  | none =>
    match u.headBuf, u.outgoing, u.lastServed with
    | [], [], _ => u
    | f :: fs, [], _ => { u with lane := some (.head f), headBuf := fs, lastServed := .headStatus }
    | [], o :: os, _ => { u with lane := some (.own o), outgoing := os, lastServed := .outgoing }
    | f :: fs, _ :: _, .outgoing => { u with lane := some (.head f), headBuf := fs, lastServed := .headStatus }
    | _ :: _, o :: os, .headStatus => { u with lane := some (.own o), outgoing := os, lastServed := .outgoing }

def kickLane (s : State) : State := { s with link := s.link.arbitrate }

/-- What the blocks do of their own at the end of a step: condition reports, the next history write, the return lane (log 9). -/
def settle (s : State) : State := kickLane (kickHistory (reportConditions s))

/-- The outcome of a command: an unpowered part does nothing (log 2). -/
def live (f : State → State) (s : State) : Host.Outcome State Fault Refusal := .next (if s.powered then settle (f s) else s)

/-- The outcome of a command that changes no slot record, no channel record or counter and no history place. -/
def quiet (f : State → State) (s : State) : Host.Outcome State Fault Refusal := .next (if s.powered then kickLane (f s) else s)

/-! ## Serving requests (R65, R185, R191-R193) -/

/-- The response places occupied. -/
def LinkUnit.responses (u : LinkUnit) : Nat := u.outgoing.countP (fun o => match o with
  | .response _ => true
  | .notice _ => false)

/-- R185: free places less promised places. -/
def available (s : State) : Nat := 7 - s.link.responses - s.mgmt.promised

/-- A response joins the tail of the outgoing list. -/
def placeResponse (r : Response) (s : State) : State :=
  { s with link := { s.link with outgoing := s.link.outgoing ++ [.response r] } }

/-- The response to a served request takes the place promised to it. -/
def respond (tag : Byte) (kind : BitVec 16) (st : Status) (results : List Byte) (s : State) : State :=
  placeResponse { tag, kind, status := st, results } { s with mgmt := { s.mgmt with promised := s.mgmt.promised - 1 } }

def Request.reply (r : Request) (st : Status) (results : List Byte) (s : State) : State := respond r.tag r.kind st results s

/-- R192: the request `r` at the head of the queue can be served. -/
def canServe (s : State) : Bool := 2 ≤ available s && !s.mgmt.resetPending

/-- The state with the head request served and its response promised. -/
def takeRequest (rest : List Request) (s : State) : State :=
  { s with mgmt := { s.mgmt with queue := rest, promised := s.mgmt.promised + 1 } }

/-- R192: the head of the queue is served if it is of kind `code`; otherwise the command does nothing (log 1). -/
def serving (code : Nat) (carry : Request → State → State) (s : State) : State :=
  match s.mgmt.queue with
  | [] => s
  | r :: rest => if r.kind.toNat = code ∧ canServe s then carry r (takeRequest rest s) else s

/-- A request whose arguments are numbers of the given widths; bytes that do not fit are answered BAD_ARGUMENT (R192). -/
def withArgs (ws : List Nat) (carry : List Nat → Request → State → State) (r : Request) (s : State) : State :=
  match fields ws r.args with
  | some vs => carry vs r s
  | none => r.reply .badArgument [] s

/-! ## Reset (R185, R196 and every chapter's reset column) -/

/-- R107, R133: a write in progress is completed. -/
def completeWrites (s : State) : State :=
  let keys := match s.keys.current with
    | some w => { s.keys with cells := upd s.keys.cells w.key w.entry, current := none }
    | none => s.keys
  let history := match s.history.writing with
    | some w => { s.history with cells := upd s.history.cells w.index w.image, writing := none }
    | none => s.history
  { s with keys, history }

/-- R74: the contacts sensed at the end of a reset. -/
def sensed (pins : Pins) (i : SlotNo) : Bool := pins.contacts.getLsbD i.val

/-- Every block's reset values; what is non-volatile, the queue of commands and the frames already sent are kept. -/
def resetPart (pins : Pins) (s : State) : State :=
  { State.reset with
    pending := s.pending
    link := { State.reset.link with bridge := 40 + pins.straps.toNat, headOut := s.link.headOut, laneOut := s.link.laneOut }
    presence := tab fun i => if sensed pins i then { closed := true, timer := some 200 } else {}
    slots := tab fun i => if sensed pins i then { state := .settling } else {}
    keys := { cells := s.keys.cells, image := s.keys.cells }
    nonceNext := s.nonceNext
    busOut := s.busOut
    history := { cells := s.history.cells, image := s.history.cells }
    freeCount := s.freeCount }

end Sys2Proof.Machine
end

