-- ==== Sys2Proof/Machine/Bus.lean ====
section
/-!
DEFINITION. The line controllers as requesters see them: placing a request (R85), owed marks (R86), enquiry (R85, R116),
commits (R117, R118, R124), withdrawal (R87), and the end of an audit (R149, R150, R153), which lifts its hold on commits.
-/

namespace Sys2Proof.Machine

/-! ## Queue and owed marks (R84-R86) -/

/-- R84. -/
def Line.free (ln : Line) : Nat := 8 - ln.queue.length

/-- The requester of each kind. -/
def TxKind.requester : TxKind → Requester
  | .identify | .challenge => .slotController
  | .usageWrite | .markExhausted => .commitUnit
  | .recordRead => .auditUnit

/-- An owed mark for a request; a mark already set stays as it is. -/
def Owed.set (o : Owed) (e : TxEntry) : Owed :=
  match e.kind with
  | .identify => { o with identify := true }
  | .challenge => { o with challenge := true }
  | .usageWrite => { o with usageWrite := true }
  | .markExhausted => { o with markExhausted := true }
  | .recordRead => if o.recordRead.isSome then o else { o with recordRead := e.record }

def Owed.clear (o : Owed) : TxKind → Owed
  | .identify => { o with identify := false }
  | .challenge => { o with challenge := false }
  | .usageWrite => { o with usageWrite := false }
  | .markExhausted => { o with markExhausted := false }
  | .recordRead => { o with recordRead := none }

def Owed.has (o : Owed) : TxKind → Bool
  | .identify => o.identify
  | .challenge => o.challenge
  | .usageWrite => o.usageWrite
  | .markExhausted => o.markExhausted
  | .recordRead => o.recordRead.isSome

/-- R86's order within one position. -/
def Owed.first (o : Owed) : Option TxKind :=
  [TxKind.challenge, .identify, .usageWrite, .markExhausted, .recordRead].find? o.has

/-- The mark that a freed place goes to: the lowest position that has one, then R86's order. -/
def Line.nextOwed (ln : Line) : Option (TagPos × TxKind) :=
  (List.finRange 4).findSome? (fun p => (nth ln.owed p).first.map (fun k => (p, k)))

/-- One freed place given to an owed mark. -/
def Line.serveOne (l : LineNo) (ln : Line) : Line :=
  if ln.queue.length < 8 then
    match ln.nextOwed with
    | none => ln
    | some (p, k) =>
      let o := nth ln.owed p
      let e : TxEntry :=
        { slot := slotAt l p, kind := k, requester := k.requester, origin := .other,
          record := if k = .recordRead then o.recordRead else none }
      { ln with queue := ln.queue ++ [e], owed := upd ln.owed p (o.clear k) }
  else ln

/-- Places are given until they or the marks run out; eight places are all there are. -/
def Line.serveMarks (l : LineNo) (ln : Line) : Line := (List.range 8).foldl (fun x _ => x.serveOne l) ln

/-- R85: how the line takes a request, and whether it does. -/
def Line.place (ln : Line) (e : TxEntry) : Line × Bool :=
  match e.origin with
  | .schedule => if 4 ≤ ln.free then ({ ln with queue := ln.queue ++ [e] }, true) else (ln, false)
  | .other =>
    if 1 ≤ ln.free then ({ ln with queue := ln.queue ++ [e] }, true)
    else ({ ln with owed := upd ln.owed (posOf e.slot) ((nth ln.owed (posOf e.slot)).set e) }, true)

/-- A request placed on its slot's line: the new state, and whether the line took it. -/
def place (i : SlotNo) (k : TxKind) (o : Origin) (rec : Option RecNo) (s : State) : State × Bool :=
  let r := (s.line (lineOf i)).place { slot := i, kind := k, requester := k.requester, origin := o, record := rec }
  (s.setLine (lineOf i) r.1, r.2)

/-- A request of origin OTHER, which the line always takes. -/
def request (i : SlotNo) (k : TxKind) (s : State) : State := (place i k .other none s).1

/-- R85, R116: a request of a kind for a slot is queued, owed or in flight. -/
def isPending (s : State) (i : SlotNo) (k : TxKind) : Bool :=
  let ln := s.line (lineOf i)
  ln.queue.any (fun e => e.slot == i && e.kind == k) || (nth ln.owed (posOf i)).has k ||
    match ln.flight with
    | some fl => fl.entry.slot == i && fl.entry.kind == k
    | none => false

/-! ## The audit's hold (R140) and the owed-commit flag (R124) -/

def AuditState.active : AuditState → Bool
  | .running | .paused | .stopping => true
  | .idle | .done | .aborted _ => false

/-- R140: the slot that the audit holds. -/
def heldSlot (s : State) : Option SlotNo := if s.audit.state.active then s.audit.slot else none

def setOwedCommit (i : SlotNo) (b : Bool) (s : State) : State := s.setSlot i { s.slot i with owedCommit := b }

/-- R124, R149. A write that is still pending keeps the flag until its ending, as R149 says of the lifting of a hold, and so also where
the slot is no longer commit-eligible and its withdrawn write is in flight, for which R124's table alone would clear the flag (log 23).
A request placed here at the last ending of a DRAINING line comes before the stop of the line (log 9). -/
def serveOwedCommit (i : SlotNo) (s : State) : State :=
  let sl := s.slot i
  if sl.owedCommit = false then s
  else if heldSlot s = some i then s
  else if isPending s i .usageWrite then s
  else if sl.state.commitEligible = false then setOwedCommit i false s
  else if sl.committed < sl.consumed then request i .usageWrite (setOwedCommit i false s)
  else setOwedCommit i false s

/-! ## Withdrawal (R87) -/

/-- A line with what `hits` names withdrawn: queued entries leave, a transaction in flight is marked, and one that stands in its
retry pause makes no further try and ends (log 9). -/
def Line.withdraw (ln : Line) (hits : TxEntry → Bool) : Line :=
  { ln with
    queue := ln.queue.filter (fun e => !hits e)
    flight := match ln.flight with
      | none => none
      | some fl =>
        if hits fl.entry then
          match fl.phase with
          | .awaiting _ => some { fl with withdrawn := true }
          | .pausing _ => none
        else some fl }

/-- R87: every transaction of a slot. A usage write that has ended with it has its owed-commit flag served (R123). -/
def withdrawSlot (i : SlotNo) (s : State) : State :=
  let l := lineOf i
  let had := isPending s i .usageWrite
  let ln := (s.line l).withdraw (fun e => e.slot == i)
  let t := s.setLine l (({ ln with owed := upd ln.owed (posOf i) {} } : Line).serveMarks l)
  if had && !isPending t i .usageWrite then serveOwedCommit i t else t

/-- R153: the audit's pending RECORD READ. -/
def withdrawRead (i : SlotNo) (s : State) : State :=
  let l := lineOf i
  let ln := (s.line l).withdraw (fun e => e.slot == i && e.kind == .recordRead)
  s.setLine l (({ ln with owed := upd ln.owed (posOf i) { nth ln.owed (posOf i) with recordRead := none } } : Line).serveMarks l)

/-! ## The end of an audit (R149, R153) -/

/-- R153: entry to DONE, or to ABORTED with a reason. -/
def auditEnd (r : Option AbortReason) (s : State) : State :=
  match s.audit.slot with
  | none => s
  | some i =>
    let st : AuditState := match r with
      | none => .done
      | some a => .aborted a
    let s1 := s.setAudit { s.audit with state := st, pass := none }
    let s2 := serveOwedCommit i (withdrawRead i s1)
    raise .auditFinished (.slot i) (st.endingNo * 2 ^ 24 + s.audit.failing.length * 2 ^ 16 + s.audit.passes) s2

/-- The channel whose feed list holds the slot (R3: at most one). -/
def channelOf (s : State) (i : SlotNo) : Option ChannelNo := (List.finRange 8).find? (fun c => (s.chan c).feed.contains i)

/-- The active limits of the slot's channel; 0 and 0 in no feed list (R14). -/
def limitsOf (s : State) (i : SlotNo) : Limits :=
  match channelOf s i with
  | some c => (s.chan c).limits
  | none => {}

/-- R150: the commit-pressure limit P. -/
def pressureLimit (s : State) (i : SlotNo) : Nat :=
  let step := (limitsOf s i).step
  if step = 0 then 1000000 else 2 * step

/-- R150. -/
def pressureTest (i : SlotNo) (s : State) : State :=
  let sl := s.slot i
  if heldSlot s = some i ∧ pressureLimit s i < sl.consumed - sl.committed then
    auditEnd (some .commitPressure) (setOwedCommit i true s)
  else s

/-! ## Commit triggers (R117, R118) -/

/-- R118: a trigger whose condition holds, with whether it was placed (R162). -/
def trigger (i : SlotNo) (o : Origin) (s : State) : State × Bool :=
  if (s.slot i).state.commitEligible = false then (s, true)
  else if heldSlot s = some i then (pressureTest i (setOwedCommit i true s), true)
  else if isPending s i .usageWrite then (setOwedCommit i true s, true)
  else place i .usageWrite o none s

/-- R117: the catch-up, mode and retirement triggers. -/
def triggerIfBehind (i : SlotNo) (s : State) : State :=
  if (s.slot i).committed < (s.slot i).consumed then (trigger i .other s).1 else s

/-- R117: the step trigger, after a debit that raised the consumed amount. -/
def stepTrigger (i : SlotNo) (s : State) : State :=
  let step := (limitsOf s i).step
  if step ≠ 0 ∧ step ≤ (s.slot i).consumed - (s.slot i).committed then (trigger i .other s).1 else s

/-- R119: mode triggers, in ascending slot order. -/
def modeTriggers (s : State) : State := (List.finRange 16).foldl (fun t i => triggerIfBehind i t) s

end Sys2Proof.Machine
end

