-- ==== Sys2Proof/Machine/Supply.lean ====
section
/-!
DEFINITION. Selection runs and the gate (R4-R11), reports of a slot's change of state (R6, R15, R151), level checks (R12-R14),
evidence (R101), entry to REJECTED and FAULTED (R102, R103), debits and frame volumes (R30, R32-R36).
-/

namespace Sys2Proof.Machine

/-! ## Selection (R4, R5, R8, R9, R15) -/

/-- R4: a slot state a channel of the policy may draw from. -/
def SlotState.usable (p : Policy) : SlotState → Bool
  | .genuine | .challenging (.rechallenge .genuine) => true
  | .suspect | .challenging (.rechallenge .suspect) => p = .warn
  | _ => false

/-- R4. -/
def usable (s : State) (ch : Channel) (i : SlotNo) : Bool := ch.feed.contains i && (s.slot i).state.usable ch.policy

/-- The slot is the active slot of some channel. -/
def isActive (s : State) (i : SlotNo) : Bool := (List.finRange 8).any (fun c => (s.chan c).active == some i)

/-- R15: a DEPLETED slot that is active nowhere is handed to the commit unit. -/
def retireCheck (i : SlotNo) (s : State) : State :=
  if (s.slot i).state = .depleted ∧ isActive s i = false then s.setHandover i true else s

/-- R5: the active slot that a run decides on. -/
def choose (s : State) (ch : Channel) : Option SlotNo :=
  match ch.active with
  | some a => if usable s ch a then some a else ch.feed.find? (usable s ch)
  | none => ch.feed.find? (usable s ch)

/-- R8. -/
def gateFor (m : Mode) (st : ChannelState) : Gate := if m = .run ∧ st = .feeding then .opened else .closed

/-- R5: the event of a run, by the active slot before and after. -/
def runEvent (c : ChannelNo) (was : Channel) (next : Option SlotNo) (s : State) : State :=
  match was.active, next with
  | some a, some b => if a = b then s else raise .supplySwitch (.channel c) (a.val * 256 + b.val) s
  | none, some b => raise .channelFed (.channel c) b.val s
  | some a, none => raise .channelStarved (.channel c) a.val s
  | none, none => if was.state = .unused then raise .channelStarved (.channel c) 255 s else s

/-- R5: a selection run applied. -/
def applyRun (c : ChannelNo) (s : State) : State :=
  let ch := s.chan c
  if ch.ink = 0 then reportSupply (s.setChan c { ch with state := .unused, active := none, gate := .closed }) c
  else
    let next := choose s ch
    let st : ChannelState := if next.isSome then .feeding else .starved
    let s1 := s.setChan c
      { ch with active := next, state := st, gate := gateFor s.mgmt.mode st, switched := ch.switched || ch.active != next }
    let s2 := runEvent c ch next (reportSupply s1 c)
    match ch.active with
    | some a => if next = some a then s2 else retireCheck a s2
    | none => s2

/-- R7: while a swath is open the run is held. -/
def selectionRun (c : ChannelNo) (s : State) : State :=
  if s.swathOpen then s.setChan c { s.chan c with selectionHeld := true } else applyRun c s

/-- Selection runs for every channel (R6), in ascending channel order: the model's choice, because R6 gives no order (log 9). -/
def runAll (s : State) : State := (List.finRange 8).foldl (fun t c => selectionRun c t) s

/-! ## A slot's change of state, reported (R6, R15, R151) -/

/-- R151: an audit whose slot is no longer eligible ends. -/
def auditCheck (i : SlotNo) (s : State) : State :=
  if heldSlot s = some i then
    let st := (s.slot i).state
    if st.auditEligible then s
    else if st = .empty then auditEnd (some .slotGone) s
    else auditEnd (some .slotState) s
  else s

/-- What the audit unit and the commit unit make of a slot's new state. -/
def slotChecks (i : SlotNo) (s : State) : State := retireCheck i (auditCheck i s)

/-- The report without the selection run (CHANNEL WRITE makes its own run last, R17, log 9; a wake makes it with the mode, R106). -/
def slotReported (i : SlotNo) (s : State) : State := slotChecks i (reportSlot s i)

/-- The selection run of the channel whose feed list holds the slot. -/
def runFor (i : SlotNo) (s : State) : State :=
  match channelOf s i with
  | some c => selectionRun c s
  | none => s

/-- The report of a change of a slot's state: its conditions, the selection run, the audit unit, the retirement check. That the run,
with its events, comes before an AUDIT_FINISHED is the model's choice, because R166 lets the two blocks' events come in either
order (log 9). -/
def slotChanged (i : SlotNo) (s : State) : State := slotChecks i (runFor i (reportSlot s i))

/-! ## Level checks (R12-R14) -/

/-- R12: the LOW flag. -/
def lowCheck (i : SlotNo) (low : Nat) (s : State) : State :=
  let sl := s.slot i
  if sl.remaining ≤ low ∧ sl.low = false then raise .levelLow (.slot i) sl.remaining (reportSlot (s.setSlot i { sl with low := true }) i)
  else s

/-- R13: what the state becomes at or below the reserve, if it changes. -/
def SlotState.deplete : SlotState → Option SlotState
  | .genuine | .suspect => some .depleted
  | .challenging (.rechallenge .genuine) | .challenging (.rechallenge .suspect) => some (.challenging (.rechallenge .depleted))
  | .challenging (.wake .genuine) | .challenging (.wake .suspect) => some (.challenging (.wake .depleted))
  | _ => none

/-- A level check against given limits, and whether the slot's state changed. -/
def levelCheckCore (i : SlotNo) (lim : Limits) (s : State) : State × Bool :=
  if (s.slot i).identity = none then (s, false)
  else
    let s1 := lowCheck i lim.low s
    let sl := s1.slot i
    if sl.remaining ≤ lim.reserve then
      match sl.state.deplete with
      | some st => (raise .slotDepleted (.slot i) sl.remaining (s1.setSlotState i st), true)
      | none => (s1, false)
    else (s1, false)

/-- R12: a level check against the limits of the slot's channel, and the report of a change. -/
def levelCheck (i : SlotNo) (s : State) : State :=
  let r := levelCheckCore i (limitsOf s i) s
  if r.2 then slotChanged i r.1 else r.1

/-! ## Evidence (R101) -/

/-- R101's table: the state with a new member, if it changes. -/
def SlotState.suspected : SlotState → Option SlotState
  | .genuine => some .suspect
  | .challenging (.rechallenge .genuine) => some (.challenging (.rechallenge .suspect))
  | .challenging (.wake .genuine) => some (.challenging (.wake .suspect))
  | _ => none

/-- R101: the set grows, which is reported, and REFILL_SUSPECT is raised. -/
def growEvidence (i : SlotNo) (m : Evidence) (s : State) : State :=
  raise .refillSuspect (.slot i) m.no
    (reportSlot (s.setSlot i { s.slot i with evidence := (s.slot i).evidence.insert m }) i)

/-- A member added to a slot that holds its history entry or, at reconciliation, is passing (R130); whether the state changed. -/
def addEvidenceCore (i : SlotNo) (m : Evidence) (passing : Bool) (s : State) : State × Bool :=
  let sl := s.slot i
  if sl.evidence.has m then (s, false)
  else
    let s1 := growEvidence i m s
    let s2 := match sl.serial? with
      | some serial => if sl.holds || passing then historyEvidence serial m s1 else s1
      | none => s1
    match sl.state.suspected with
    | some st => (s2.setSlotState i st, true)
    | none => (s2, false)

def addEvidence (i : SlotNo) (m : Evidence) (s : State) : State :=
  let r := addEvidenceCore i m false s
  if r.2 then slotChanged i r.1 else r.1

/-! ## REJECTED and FAULTED (R102, R103) -/

/-- R102 up to the report: reason, withdrawal, AUTH_REJECTED. -/
def rejectCore (i : SlotNo) (r : RejectReason) (s : State) : State :=
  raise .authRejected (.slot i) r.no (withdrawSlot i (s.setSlotState i (.rejected r)))

/-- R102. -/
def reject (i : SlotNo) (r : RejectReason) (s : State) : State := slotChanged i (rejectCore i r s)

/-- R103 with the SLOT_FAULTED of the rule that caused it, up to the report (log 9). -/
def faultCore (i : SlotNo) (r : FaultReason) (k : TxKind) (s : State) : State :=
  raise .slotFaulted (.slot i) (r.no * 256 + k.wireNo) (historyFault i (withdrawSlot i (s.setSlotState i (.faulted r))))

/-! ## Debits (R32-R36) -/

/-- R33's last row: the active slot is charged. -/
def Slot.chargeable (sl : Slot) : Bool :=
  sl.state.inService || sl.state.rechallenging ||
    match sl.state with
    | .rejected _ | .faulted _ => sl.holds
    | _ => false

/-- R34: OVERDRAW, once between two clearings of its flag. -/
def reportOverdraw (c : ChannelNo) (a : Option SlotNo) (amount : Nat) (s : State) : State :=
  if amount = 0 ∨ nth s.meter.overdrawReported c then s
  else raise .overdraw (.channel c) (slotOr255 a)
    { s with meter := { s.meter with overdrawReported := upd s.meter.overdrawReported c true } }

/-- R34: UNATTRIBUTED, once between two clearings of its flag. -/
def reportUnattributed (c : ChannelNo) (a : Option SlotNo) (amount : Nat) (s : State) : State :=
  if amount = 0 ∨ nth s.meter.unattributedReported c then s
  else raise .unattributed (.channel c) (slotOr255 a)
    { s with meter := { s.meter with unattributedReported := upd s.meter.unattributedReported c true } }

/-- R35: the checks that follow a debit the slot took something of: level, commit trigger (R117), commit pressure (R150). R35 asks for no
order between the level check and the trigger check: that the level check with its selection run and their events comes first is the
model's choice (log 9). -/
def afterDebit (i : SlotNo) (s : State) : State := pressureTest i (stepTrigger i (levelCheck i s))

/-- How a debit of `d` nL is placed: to the slot, to overdraw, to unattributed (R33). -/
structure Placing where
  taken : Nat
  overdraw : Nat
  unattributed : Nat
  deriving DecidableEq, Repr

def placing (s : State) (c : ChannelNo) (d : Nat) : Placing :=
  match (s.chan c).active with
  | none => { taken := 0, overdraw := 0, unattributed := d }
  | some a =>
    let sl := s.slot a
    if sl.chargeable then { taken := min d sl.remaining, overdraw := d - min d sl.remaining, unattributed := 0 }
    else { taken := 0, overdraw := 0, unattributed := d }

/-- R33, R34, R35: a debit of `d` nL to a channel's active slot. -/
def debit (c : ChannelNo) (d : Nat) (s : State) : State :=
  if d = 0 then s
  else
    let p := placing s c d
    let a := (s.chan c).active
    let k := s.counter c
    let s1 := s.setCounters c
      { k with debited := k.debited + p.taken, overdraw := k.overdraw + p.overdraw, unattributed := k.unattributed + p.unattributed }
    let s2 := match a with
      | some i => if p.taken = 0 then s1 else s1.setSlot i { s1.slot i with consumed := (s1.slot i).consumed + p.taken }
      | none => s1
    let s3 := reportUnattributed c a p.unattributed (reportOverdraw c a p.overdraw (reportMeter s2 c))
    match a with
    | some i => if p.taken = 0 then s3 else afterDebit i s3
    | none => s3

/-- R30, R32, R38: `v` vu added to the metered total and the accumulator, and the whole nanolitres debited. -/
def addVolume (c : ChannelNo) (v : Nat) (s : State) : State :=
  let k := s.counter c
  let acc := k.remainder + v
  debit c (acc / 10000) (s.setCounters c { k with metered := k.metered + v, remainder := acc % 10000 })

end Sys2Proof.Machine
end

