-- ==== Sys2Proof/Machine/Audits.lean ====
section
/-!
DEFINITION. Audit passes (R142-R146): reads, the record code check, the sequence check, failures, and the start of an audit (R141).
-/

namespace Sys2Proof.Machine

/-- The secret an entry keeps; an EMPTY entry has none (its use is ruled out by R120, R143). -/
def KeyEntry.secret : KeyEntry → BitVec 128
  | .empty => 0
  | .loaded k | .revoked k => k

/-- The secret of the key entry that an identity names (R98, R120, R143). -/
def secretOf (s : State) (id : Identity) : BitVec 128 :=
  match asFin 8 id.keyId with
  | some k => (nth s.keys.image k).secret
  | none => 0

/-- R142: the states in which the audit reads. -/
def AuditState.reading : AuditState → Bool
  | .running | .stopping => true
  | .idle | .paused | .done | .aborted _ => false

def setPass (p : AuditPass) (s : State) : State := s.setAudit { s.audit with pass := some p }

/-- R142: the RECORD READ of the pass position is placed, if the position is an index and none is awaited. -/
def placeRead (s : State) : State :=
  match s.audit.slot, s.audit.pass with
  | some i, some p =>
    match p.position, p.awaited with
    | .index n, none =>
      if s.audit.state.reading then (place i .recordRead .other (some n) (setPass { p with awaited := some n } s)).1 else s
    | _, _ => s
  | _, _ => s

/-- R142: a pass begins. -/
def beginPass (s : State) : State := placeRead (setPass {} s)

/-- R146: a pass after the first begins. -/
def nextPass (s : State) : State :=
  beginPass (if s.audit.accumulate then s else s.setAudit { s.audit with failing := [] })

/-- R145: pass numbers count from 1. -/
def Audit.passNo (a : Audit) : Nat := min (a.passes + 1) 65535

/-- R145 step 1: the index at its place in ascending order, once. -/
def insertIndex (n : RecNo) : List RecNo → List RecNo
  | [] => [n]
  | m :: rest => if n = m then m :: rest else if n < m then n :: m :: rest else m :: insertIndex n rest

/-- R145. -/
def auditFailure (n : RecNo) (k : FailureKind) (s : State) : State :=
  match s.audit.slot with
  | none => s
  | some i =>
    let a := s.audit
    let first := match a.firstFailure with
      | some f => some f
      | none => some { index := n, kind := k, pass := a.passNo, time := s.mgmt.partTime }
    let s1 := addEvidence i .recordIntegrity (s.setAudit { a with failing := insertIndex n a.failing, firstFailure := first })
    let s2 := reportSlot (s1.setSlot i { s1.slot i with auditFail := true }) i
    if s2.audit.mode = .pause ∧ s2.audit.state = .running then
      raise .auditPaused (.slot i) (k.no * 2 ^ 24 + n.val * 2 ^ 16 + a.passNo)
        (s2.setAudit { s2.audit with state := .paused })
    else s2

/-- R144: a sequence's ring place. -/
def ringPlace (q : Nat) : RecNo := ⟨q % 8, Nat.mod_lt _ (by decide)⟩

/-- R144 test 1: the lowest index whose record stands out of its place. -/
def misplaced (view : List (RecNo × Nat)) : Option RecNo := (view.find? (fun r => ringPlace r.2 != r.1)).map (·.1)

/-- R144: the failing index of a pass view against the committed sequence. -/
def sequenceFailure (view : List (RecNo × Nat)) (committed : Nat) : Option RecNo :=
  match misplaced view with
  | some n => some n
  | none => if (view.map (·.2)).foldl max 0 = committed then none else some (ringPlace committed)

/-- R146: the end of a pass. -/
def passEnd (s : State) : State :=
  let s1 := s.setAudit { s.audit with passes := min (s.audit.passes + 1) 65535 }
  match s1.audit.state, s1.audit.mode with
  | .stopping, _ => auditEnd none s1
  | .running, .once => auditEnd none s1
  | .running, _ => nextPass s1
  | _, _ =>
    match s1.audit.pass with
    | some p => setPass { p with position := .nextPass } s1
    | none => s1

/-- R144: the sequence check, made when the position is CHECK and the audit reads; then the pass ends. -/
def sequenceCheck (s : State) : State :=
  match s.audit.slot, s.audit.pass with
  | some i, some p =>
    if p.position = .check ∧ s.audit.state.reading then
      if p.writeEnded then passEnd s
      else match sequenceFailure p.view (s.slot i).sequence with
        | some n => passEnd (auditFailure n .sequence s)
        | none => passEnd s
    else s
  | _, _ => s

/-- R143: the position after index `n`. -/
def PassPosition.after (n : RecNo) : PassPosition := if h : n.val + 1 < 8 then .index ⟨n.val + 1, h⟩ else .check

/-- R142, R143: the audit goes on from its position, unless it is PAUSED. -/
def auditContinue (s : State) : State :=
  match s.audit.pass with
  | some p =>
    match p.position with
    | .index _ => placeRead s
    | .check => sequenceCheck s
    | .nextPass => if s.audit.state.reading then nextPass s else s
  | none => s

/-- R143: the record read, its sequence, consumed amount and code. -/
def recordSequence (bs : List Byte) : Nat := part 0 4 bs
def recordConsumed (bs : List Byte) : Nat := part 4 4 bs
def recordCodeOf (bs : List Byte) : BitVec 64 := BitVec.ofNat 64 (part 12 8 bs)

/-- R143: the record code check. -/
def recordMatches (s : State) (i : SlotNo) (bs : List Byte) : Bool :=
  match (s.slot i).identity with
  | some id => Config.recordCode (secretOf s id) id.serial (recordSequence bs) (recordConsumed bs) == recordCodeOf bs
  | none => false

/-- R143: the outcome of a RECORD READ of slot `i`, place `n`: the record, or NEVER WRITTEN. -/
def readOutcome (i : SlotNo) (n : RecNo) (record : Option (List Byte)) (s : State) : State :=
  match s.audit.pass with
  | none => s
  | some p =>
    if s.audit.state.reading ∧ s.audit.slot = some i ∧ p.awaited = some n then
      let p1 := { p with awaited := none, position := PassPosition.after n }
      match record with
      | none => auditContinue (setPass p1 s)
      | some bs =>
        let s1 := setPass { p1 with view := p.view ++ [(n, recordSequence bs)] } s
        auditContinue (if recordMatches s i bs then s1 else auditFailure n .checkCode s1)
    else s

/-- R149: the write-ended mark of the current pass. -/
def writeEnded (i : SlotNo) (s : State) : State :=
  match s.audit.pass with
  | some p => if heldSlot s = some i then setPass { p with writeEnded := true } s else s
  | none => s

/-- R141: an audit starts. -/
def startAudit (i : SlotNo) (m : AuditMode) (acc : Bool) (s : State) : State :=
  beginPass (s.setAudit { slot := some i, mode := m, accumulate := acc, state := .running })

end Sys2Proof.Machine
end

