-- ==== Sys2Proof/Machine/Swaths.lean ====
section
/-!
DEFINITION. Mode changes (R187-R190, R106, R119, R89) and the close of a swath with every held change (R42-R51).
-/

namespace Sys2Proof.Machine

/-! ## Modes -/

/-- R187: a key write waiting or in progress. -/
def keyWriteBusy (s : State) : Bool := s.keys.current.isSome || !s.keys.waiting.isEmpty

/-- R187: at least one LOADED key and one head mapped to a channel in use. -/
def ready (s : State) : Bool :=
  (List.finRange 8).any (fun k => match nth s.keys.image k with
    | .loaded _ => true
    | .empty | .revoked _ => false) &&
  (List.finRange 32).any (fun h => match (nth s.meter.headMap h).channel with
    | some c => (s.chan c).ink != 0
    | none => false)

/-- The mode takes the target and MODE_CHANGED is raised (R188-R190). -/
def takeMode (m : Mode) (s : State) : State :=
  raise .modeChanged .none (s.mgmt.mode.no * 256 + m.no) { s with mgmt := { s.mgmt with mode := m } }

/-- R8: every gate is CLOSED. -/
def closeGates (s : State) : State :=
  { s with channels := tab fun c => { nth s.channels c with gate := .closed } }

/-- R188: a change between SETUP and RUN. -/
def applyMode (m : Mode) (s : State) : State :=
  let s1 := takeMode m s
  let s2 := if s.mgmt.mode = .run ∧ m = .setup then modeTriggers (closeGates s1) else s1
  runAll s2

/-- R188: the held mode change, at a close. -/
def applyHeldMode (s : State) : State :=
  match s.mgmt.heldMode with
  | none => s
  | some m =>
    let s1 := { s with mgmt := { s.mgmt with heldMode := none } }
    if m = .run ∧ (ready s = false ∨ keyWriteBusy s = true) then s1 else applyMode m s1

/-! ## The close (R48, R49, R51) -/

def SwathOutcome.recordOf (o : SwathOutcome) (w : OpenSwath) : SwathRecord :=
  { id := w.id, outcome := o, openTime := w.openTime, duration := w.elapsed, volumes := tab fun c => nth w.volumes c / 10000,
    unchanged := w.unchanged, blanked := w.blanked, discarded := w.discarded }

/-- R53: the held time limit becomes active. -/
def Tracker.applyLimit (t : Tracker) : Tracker :=
  match t.heldLimit with
  | some n => { t with limit := n, heldLimit := none }
  | none => t

/-- R48: the tracker's own part of a close. -/
def trackerClose (o : SwathOutcome) (w : OpenSwath) (s : State) : State :=
  let s1 := { s with tracker :=
    { s.tracker with ring := (o.recordOf w :: s.tracker.ring).take 16, closes := (s.tracker.closes + 1) % 2 ^ 32 } }
  let s2 := if o = .closed then s1 else raise .swathIrregular .none (o.no * 65536 + w.id) s1
  { s2 with tracker := ({ s2.tracker with current := none } : Tracker).applyLimit }

/-- R51, R9: every SWITCHED becomes false, and is reported. -/
def clearSwitched (s : State) : State :=
  (List.finRange 8).foldl reportSupply { s with channels := tab fun c => { nth s.channels c with switched := false } }

/-- R19: the slots whose level is checked when limits take effect. -/
def SlotState.limitsChecked (st : SlotState) : Bool := st = .genuine || st = .suspect || st.returning.isSome

/-- R19: new limits take effect. The slots meet the level check in feed-list order: the model's choice, because R19 gives no order
(log 9). -/
def applyLimits (c : ChannelNo) (lim : Limits) (s : State) : State :=
  let s1 := s.setChan c { s.chan c with limits := lim, held := none }
  (s.chan c).feed.foldl (fun t i => if (t.slot i).state.limitsChecked then levelCheck i t else t) s1

/-- R19: a channel's held limits, at a close. -/
def applyHeldLimits (s : State) (c : ChannelNo) : State :=
  match (s.chan c).held with
  | some lim => applyLimits c lim s
  | none => s

/-- R7: a channel's held selection run, at a close. -/
def applyHeldRun (s : State) (c : ChannelNo) : State :=
  if (s.chan c).selectionHeld then applyRun c (s.setChan c { s.chan c with selectionHeld := false }) else s

/-- R29, R34: the drop meter's reporting flags are cleared. -/
def clearReported (s : State) : State :=
  { s with meter := { s.meter with
      unmappedReported := fill false, overdrawReported := fill false, unattributedReported := fill false } }

/-- R26: the staged copy replaces the active one, if writes are pending. -/
def applyStaged (s : State) : State :=
  if s.meter.stagedPending then { s with meter := { s.meter with active := s.meter.staged, stagedPending := false } } else s

/-- R51: the other blocks' part of a close, in the order of log 9. -/
def applyHeld (s : State) : State :=
  let s1 := (List.finRange 8).foldl applyHeldLimits (clearSwitched s)
  let s2 := (List.finRange 8).foldl applyHeldRun s1
  applyHeldMode (clearReported (applyStaged s2))

/-- R48, R51: the open swath closes with an outcome. -/
def closeSwath (o : SwathOutcome) (s : State) : State :=
  match s.tracker.current with
  | none => s
  | some w => applyHeld (trackerClose o w s)

/-- R42: a swath opens. -/
def openSwath (id : Nat) (s : State) : State :=
  let w : OpenSwath :=
    { id, openTime := s.mgmt.partTime, elapsed := 0, limit := s.tracker.limit, volumes := fill 0, unchanged := 0, blanked := 0,
      discarded := 0 }
  clearReported { s with tracker := { s.tracker with current := some w } }

/-! ## Entry to STANDBY and wake (R89, R106, R189, R190) -/

/-- R89: a DRAINING line with nothing in flight, queued or owed. -/
def Line.idle (ln : Line) : Bool := ln.flight.isNone && ln.queue.isEmpty && ln.nextOwed.isNone

/-- R89: a RUNNING line drains, and with nothing to run is STOPPED at once. -/
def Line.drain (ln : Line) : Line :=
  match ln.condition with
  | .running => { ln with condition := if ln.idle then .stopped else .draining }
  | .held | .draining | .stopped => ln

/-- R89: at the wake. -/
def Line.wake (ln : Line) : Line :=
  match ln.condition with
  | .draining | .stopped => { ln with condition := .running }
  | .held | .running => ln

/-- R158: entry to STANDBY halts the schedule at once. -/
def haltSchedule (s : State) : State := { s with schedule := { s.schedule with running := false, action := .none } }

/-- R152. -/
def auditModeAbort (s : State) : State := if s.audit.state.active then auditEnd (some .mode) s else s

/-- R189, in the order of log 9. -/
def enterStandby (s : State) : State :=
  let s1 := closeGates (takeMode .standby (closeSwath .aborted s))
  let s2 := runAll (haltSchedule (auditModeAbort (modeTriggers s1)))
  { s2 with lines := tab fun l => (nth s2.lines l).drain }

/-- R106: one slot at the wake. -/
def wakeSlot (s : State) (i : SlotNo) : State :=
  let sl := s.slot i
  match sl.state with
  | .challenging (.rechallenge r) => slotReported i (s.setSlotState i (.challenging (.wake r)))
  | .settling =>
    if (nth s.presence i).wakeMark then
      let s1 := s.setPresence i { nth s.presence i with timer := none, wakeMark := false }
      slotReported i (request i .identify (raise .slotInserted (.slot i) 0 (s1.setSlotState i .identifying)))
    else s
  | st =>
    match st.asReturn with
    | some r => slotReported i (request i .challenge (s.setSlotState i (.challenging (.wake r))))
    | none => s

/-- R190. The slots are taken in ascending slot order, which shows in the order of the SLOT_INSERTED events and of the requests on a line:
the model's choice, because R106 and R190 give no order among them (log 9). -/
def wake (m : Mode) (s : State) : State :=
  let s1 := (List.finRange 16).foldl wakeSlot s
  let s2 := runAll (takeMode m s1)
  { s2 with lines := tab fun l => (nth s2.lines l).wake }

end Sys2Proof.Machine
end

