-- ==== Sys2Proof/Machine/Cartridges.lean ====
section
/-!
DEFINITION. Presence, retirement and the start of transactions: CONTACT_CLOSE, CONTACT_OPEN, SETTLING_END, RETIREMENT_HANDOVER,
TRANSACTION_START, RETRY_PAUSE_END, LINE_STOP (R74-R77, R81-R84, R89, R95, R98, R120, R126).
-/

namespace Sys2Proof.Machine

/-! ## Presence (R75-R77) -/

/-- R75. -/
def contactClose (i : SlotNo) (s : State) : State :=
  if (nth s.presence i).closed then s
  else if (s.slot i).state = .empty then
    slotChanged i ((s.setPresence i { closed := true, timer := some 200, wakeMark := false }).setSlotState i .settling)
  else s.setPresence i { nth s.presence i with closed := true }

def execContactClose (i : SlotNo) (s : State) : Host.Outcome State Fault Refusal := live (contactClose i) s

/-- R77: removal from any settled state. -/
def removeSlot (i : SlotNo) (s : State) : State :=
  let was := (s.slot i).state
  let s1 := withdrawSlot i ((historyRemoval i s).setSlot i {})
  slotChanged i (raise .slotRemoved (.slot i) was.no s1)

/-- R75, R77. -/
def contactOpen (i : SlotNo) (s : State) : State :=
  if (nth s.presence i).closed then
    let s1 := s.setPresence i { closed := false, timer := none, wakeMark := false }
    match (s.slot i).state with
    | .empty => s1
    | .settling => slotChanged i (s1.setSlotState i .empty)
    | _ => removeSlot i s1
  else s

def execContactOpen (i : SlotNo) (s : State) : Host.Outcome State Fault Refusal := live (contactOpen i) s

/-- R76: the settling timer has run out with the contact still CLOSED. -/
def settled (s : State) (i : SlotNo) : Bool :=
  (nth s.presence i).closed && (s.slot i).state = .settling && (nth s.presence i).timer == some 0

/-- R76, R96; no effect before the timer has run out (log 14). -/
def settlingEnd (i : SlotNo) (s : State) : State :=
  if settled s i then
    if s.mgmt.mode = .standby then s.setPresence i { nth s.presence i with timer := none, wakeMark := true }
    else
      let s1 := s.setPresence i { nth s.presence i with timer := none, wakeMark := false }
      slotChanged i (request i .identify (raise .slotInserted (.slot i) 0 (s1.setSlotState i .identifying)))
  else s

def execSettlingEnd (i : SlotNo) (s : State) : Host.Outcome State Fault Refusal := live (settlingEnd i) s

/-! ## Retirement (R126) -/

/-- R126 steps 3 and 4. -/
def startRetirement (i : SlotNo) (s : State) : State :=
  if (s.slot i).committed < (s.slot i).consumed ∨ isPending s i .usageWrite then triggerIfBehind i s
  else request i .markExhausted (s.setSlotState i (.retiring .marking))

/-- R126: a hand-over that finds the slot no longer DEPLETED, or feeding a channel again (log 9), is dropped. R126 lets the audit's abort
and the retirement trigger come in either order: the model takes the abort first, so that it has reason SLOT_STATE and the trigger finds
no hold (log 9). -/
def retirementHandover (i : SlotNo) (s : State) : State :=
  if nth s.handover i then
    let s1 := s.setHandover i false
    if (s.slot i).state = .depleted ∧ isActive s i = false then
      startRetirement i (historyRetire i (slotChanged i (s1.setSlotState i (.retiring .finalWrite))))
    else s1
  else s

def execRetirementHandover (i : SlotNo) (s : State) : Host.Outcome State Fault Refusal := live (retirementHandover i) s

/-! ## Transactions (R81-R84, R98, R120) -/

/-- R120: the sequence a usage write expects. -/
def expectedSequence (committed : Nat) : Nat := if committed = 2 ^ 32 - 1 then 0 else committed + 1

/-- R120: the capture of a usage write; the test write arm inverts the code. -/
def capture (s : State) (i : SlotNo) : Payload :=
  let sl := s.slot i
  match sl.identity with
  | some id =>
    let code := Config.recordCode (secretOf s id) id.serial (expectedSequence sl.sequence) sl.consumed
    .usage sl.consumed Config.partIdentity (if s.testArm = some i then ~~~code else code)
  | none => .usage sl.consumed Config.partIdentity 0

/-- R81: the payload supplied at the start, with what the supply uses up: a nonce (R98), the arm (R125). -/
def supplyPayload (e : TxEntry) (s : State) : Payload × State :=
  match e.kind with
  | .identify | .markExhausted => (.plain, s)
  | .challenge => (.nonce (Config.nonce (BitVec.ofNat 64 s.nonceNext)), { s with nonceNext := s.nonceNext + 1 })
  | .usageWrite => (capture s e.slot, if s.testArm = some e.slot then { s with testArm := none } else s)
  | .recordRead => (.index (e.record.getD 0), s)

/-- R82: a request frame is sent. -/
def sendOn (l : LineNo) (fl : Flight) (s : State) : State := { s with busOut := s.busOut ++ [{ line := l, bytes := fl.request }] }

/-- R84. -/
def Line.mayStart (ln : Line) : Bool :=
  match ln.condition with
  | .running | .draining => true
  | .held | .stopped => false

/-- TRANSACTION_START (R81, R84, R86). -/
def transactionStart (l : LineNo) (s : State) : State :=
  let ln := s.line l
  match ln.flight, ln.queue with
  | none, e :: rest =>
    if ln.mayStart then
      let p := supplyPayload e s
      let fl : Flight := { entry := e, payload := p.1, tryNo := 1, withdrawn := false, phase := .awaiting 20 }
      sendOn l fl (p.2.setLine l (({ ln with queue := rest, flight := some fl } : Line).serveMarks l))
    else s
  | _, _ => s

def execTransactionStart (l : LineNo) (s : State) : Host.Outcome State Fault Refusal := quiet (transactionStart l) s

/-- RETRY_PAUSE_END (R82): the same request frame is sent again; no effect before the pause is over (log 14). -/
def retryPauseEnd (l : LineNo) (s : State) : State :=
  let ln := s.line l
  match ln.flight with
  | some fl =>
    match fl.phase with
    | .pausing 0 =>
      let fl1 := { fl with tryNo := fl.tryNo + 1, phase := .awaiting 20 }
      sendOn l fl1 (s.setLine l { ln with flight := some fl1 })
    | .pausing (_ + 1) | .awaiting _ => s
  | none => s

def execRetryPauseEnd (l : LineNo) (s : State) : Host.Outcome State Fault Refusal := quiet (retryPauseEnd l) s

/-- LINE_STOP (R89). R89 lets the stop and a request placed as the line's last transaction ends come in either order: the request stands
in the queue when this command comes, so that the request is always first (log 9). -/
def lineStop (l : LineNo) (s : State) : State :=
  let ln := s.line l
  if ln.condition = .draining ∧ ln.idle then s.setLine l { ln with condition := .stopped } else s

def execLineStop (l : LineNo) (s : State) : Host.Outcome State Fault Refusal := quiet (lineStop l) s

end Sys2Proof.Machine
end

