-- ==== Sys2Proof/Machine/Answers.lean ====
section
/-!
DEFINITION. The results of tries and the outcomes of transactions: ANSWER_FRAME and ANSWER_TIMEOUT (R72, R82, R83, R91, R96-R101,
R105, R121-R123, R127, R137, R138, R143).
-/

namespace Sys2Proof.Machine

/-! ## IDENTIFY (R96, R97) -/

/-- R111: the serial lies within a range of the deny list. -/
def denied (s : State) (serial : Nat) : Bool := s.deny.any (fun r => r.first ≤ serial && serial ≤ r.last)

/-- The history image holds an EXHAUSTED entry for the serial. -/
def exhaustedEntry (s : State) (serial : Nat) : Bool :=
  match s.history.find serial with
  | some n => (s.history.entry n).any (fun e => e.state == .exhausted)
  | none => false

/-- R97 check 5; a key id that names no entry is unknown (log 13). -/
def keyCheck (s : State) (keyId : Nat) : Option RejectReason :=
  match asFin 8 keyId with
  | none => some .keyUnknown
  | some k =>
    match nth s.keys.image k with
    | .empty => some .keyUnknown
    | .revoked _ => some .keyRevoked
    | .loaded _ => none

/-- R97 check 3: the slot stands in a feed list and its channel carries another ink. -/
def inkDiffers (s : State) (i : SlotNo) (ink : Nat) : Bool :=
  match channelOf s i with
  | some c => (s.chan c).ink != ink
  | none => false

/-- R97: the first check that applies. None of them names ink type 0, which R73 does not give a tag (log 19). -/
def identifyCheck (s : State) (i : SlotNo) (id : Identity) (marker : Bool) : Option RejectReason :=
  if id.capacity = 0 then some .badRecord
  else if marker then some .exhausted
  else if inkDiffers s i id.ink then some .inkType
  else if denied s id.serial then some .denied
  else match keyCheck s id.keyId with
    | some r => some r
    | none => if exhaustedEntry s id.serial then some .exhausted else none

/-- R96, R97: an IDENTIFY succeeded. -/
def identified (i : SlotNo) (payload : List Byte) (s : State) : State :=
  if (s.slot i).state = .identifying then
    let id := identityOf payload
    let s1 := s.setSlot i { s.slot i with identity := some id }
    match identifyCheck s1 i id (markerOf payload) with
    | some r => reject i r s1
    | none => slotChanged i (request i .challenge (s1.setSlotState i (.challenging .first)))
  else s

/-! ## CHALLENGE (R98-R101, R105, R137, R138) -/

/-- R98: the answer's code is the expected one. -/
def codeMatches (s : State) (id : Identity) (nonce : BitVec 64) (payload : List Byte) : Bool :=
  Config.challengeCode (secretOf s id) id.serial nonce (part 8 4 payload) (part 12 4 payload) == BitVec.ofNat 64 (part 0 8 payload)

/-- R99 check 4: another slot with a claim on the serial. -/
def otherHolder (s : State) (i : SlotNo) (serial : Nat) : Option SlotNo :=
  (List.finRange 16).find? (fun j =>
    j != i && (s.slot j).serial? == some serial && ((s.slot j).state.authenticated || (s.slot j).state.rechallenging))

/-- R137: the evidence that row 2 or 3 finds against an entry. -/
def HistoryEntry.finding (e : HistoryEntry) (q c : Nat) : Option Evidence :=
  if c < e.committed ∨ q < e.sequence ∨ (q = e.sequence ∧ c ≠ e.committed) then some .rollback
  else if e.sequence < q ∧ c < e.known then some .foreignLow
  else none

/-- R137, R138: the members handed back, those carried before the one found and among themselves in R167's order (log 9), and the
known amount. -/
def reconcile (s : State) (serial q c : Nat) : List Evidence × Nat :=
  match (s.history.find serial).bind s.history.entry with
  | some e => (e.evidence.members ++ (e.finding q c).toList, e.known)
  | none => ([], 0)

/-- R100: a slot passes its first challenge with the answered sequence `q` and consumed amount `c`. -/
def firstPass (i : SlotNo) (id : Identity) (q c : Nat) (s : State) : State :=
  let found := reconcile s id.serial q c
  let consumed := min (max c found.2) id.capacity
  let s1 := historyFirstPass id q c consumed s
  let s2 := found.1.foldl (fun t m => (addEvidenceCore i m true t).1) s1
  let sl := s2.slot i
  let st : SlotState := if sl.evidence.isEmpty then .genuine else .suspect
  let s3 := s2.setSlot i
    { sl with consumed := consumed, committed := c, sequence := q, lastAuth := some s2.mgmt.partTime, state := st }
  let s4 := raise .authPassed (.slot i) st.no (reportSlot s3 i)
  triggerIfBehind i (slotChanged i (levelCheckCore i (limitsOf s4 i) s4).1)

/-- R99. -/
def firstAnswer (i : SlotNo) (id : Identity) (nonce : BitVec 64) (payload : List Byte) (s : State) : State :=
  let q := part 8 4 payload
  let c := part 12 4 payload
  if codeMatches s id nonce payload = false then reject i .codeMismatch s
  else if id.capacity < c then reject i .badRecord s
  else if exhaustedEntry s id.serial then reject i .exhausted s
  else match otherHolder s i id.serial with
    | some j => slotChanged i (raise .duplicateSerial (.slot i) j.val (rejectCore i .duplicate s))
    | none => firstPass i id q c s

/-- R105: the state a re-challenged slot returns to after an answer that differs from the committed values. -/
def ReturnState.diverged : ReturnState → SlotState
  | .depleted => .depleted
  | .genuine | .suspect => .suspect

/-- R105: a matching answer returns the slot to a state. -/
def returnSlot (i : SlotNo) (ch : Challenge) (st : SlotState) (s : State) : State :=
  let s1 := s.setSlot i { s.slot i with state := st, lastAuth := some s.mgmt.partTime }
  slotChanged i (raise .authPassed (.slot i) (ch.no * 256 + st.no) s1)

/-- R105. -/
def laterAnswer (i : SlotNo) (ch : Challenge) (r : ReturnState) (id : Identity) (nonce : BitVec 64) (payload : List Byte)
    (s : State) : State :=
  if codeMatches s id nonce payload = false then reject i .codeMismatch s
  else if part 8 4 payload = (s.slot i).sequence ∧ part 12 4 payload = (s.slot i).committed then returnSlot i ch r.state s
  else returnSlot i ch r.diverged (addEvidenceCore i .diverged false s).1

/-- A CHALLENGE succeeded. -/
def challenged (i : SlotNo) (nonce : BitVec 64) (payload : List Byte) (s : State) : State :=
  match (s.slot i).state, (s.slot i).identity with
  | .challenging .first, some id => firstAnswer i id nonce payload s
  | .challenging (.rechallenge r), some id => laterAnswer i (.rechallenge r) r id nonce payload s
  | .challenging (.wake r), some id => laterAnswer i (.wake r) r id nonce payload s
  | _, _ => s

/-! ## USAGE WRITE and MARK EXHAUSTED (R121-R123, R127) -/

/-- R117: the retirement trigger at an ending of the final write. R118 lets the trigger and the ending come in either order: the model
takes the trigger first, which finds the write pending and sets the flag that the ending then serves (log 9). -/
def retirementTrigger (i : SlotNo) (s : State) : State :=
  match (s.slot i).state with
  | .retiring _ => if (s.slot i).committed < (s.slot i).consumed then setOwedCommit i true s else s
  | _ => s

/-- R127: a fully committed slot in FINAL_WRITE goes on to MARKING. On a DRAINING line the MARK EXHAUSTED is placed before the line can
stop: R89 lets the two come in either order (log 9). -/
def continueRetirement (i : SlotNo) (s : State) : State :=
  let sl := s.slot i
  if sl.state = .retiring .finalWrite ∧ sl.committed = sl.consumed ∧ isPending s i .usageWrite = false ∧ sl.owedCommit = false then
    request i .markExhausted (s.setSlotState i (.retiring .marking))
  else s

/-- R121, R149: a USAGE WRITE of the captured amount was accepted with sequence `n`. -/
def writeDone (i : SlotNo) (captured n : Nat) (s : State) : State :=
  let s1 := s.setSlot i { s.slot i with committed := captured, sequence := n }
  continueRetirement i (serveOwedCommit i (retirementTrigger i (writeEnded i (historyCommit i s1))))

/-- R122, then the owed-commit flag (R123, R124). -/
def writeRefused (i : SlotNo) (s : State) : State :=
  let s1 := slotChanged i (faultCore i .commitRefused .usageWrite s)
  serveOwedCommit i (raise .commitFailed (.slot i) 0 (addEvidence i .diverged s1))

/-- R127: MARK EXHAUSTED succeeded. -/
def marked (i : SlotNo) (s : State) : State :=
  if (s.slot i).state = .retiring .marking then
    slotChanged i (raise .slotRetired (.slot i) (s.slot i).consumed (s.setSlotState i .exhausted))
  else s

/-! ## Endings (R83, R87, R123) -/

def setFlight (l : LineNo) (f : Option Flight) (s : State) : State := s.setLine l { s.line l with flight := f }

def modCounters (l : LineNo) (f : LineCounters → LineCounters) (s : State) : State :=
  s.setLine l { s.line l with counters := f (s.line l).counters }

/-- R83: success, handed to the requester. -/
def succeed (l : LineNo) (fl : Flight) (payload : Option (List Byte)) (refused : Bool) (s : State) : State :=
  let s1 := setFlight l none (modCounters l (fun k => { k with completed := sat32 (k.completed + 1) }) s)
  let i := fl.entry.slot
  match fl.entry.kind with
  | .identify => identified i (payload.getD []) s1
  | .challenge =>
    match fl.payload with
    | .nonce n => challenged i n (payload.getD []) s1
    | .plain | .usage _ _ _ | .index _ => s1
  | .usageWrite =>
    if refused then writeRefused i s1
    else match fl.payload with
      | .usage c _ _ => writeDone i c (part 0 4 (payload.getD [])) s1
      | .plain | .nonce _ | .index _ => s1
  | .markExhausted => marked i s1
  | .recordRead =>
    match fl.payload with
    | .index n => readOutcome i n payload s1
    | .plain | .nonce _ | .usage _ _ _ => s1

/-- R83, R123: the tries are exhausted. SLOT_FAULTED and a write's COMMIT_FAILED may come in either order: a free choice (log 8). -/
def exhaustTries (l : LineNo) (fl : Flight) (s : State) : State :=
  let s1 := setFlight l none (modCounters l (fun k => { k with failed := sat32 (k.failed + 1) }) s)
  let i := fl.entry.slot
  if (s1.slot i).state.present = false then s1
  else if fl.entry.kind = .usageWrite then
    let s2 := { s1 with freeCount := s1.freeCount + 1 }
    let s3 :=
      if Config.freeChoice s1.freeCount then raise .commitFailed (.slot i) 1 (faultCore i .noResponse .usageWrite s2)
      else faultCore i .noResponse .usageWrite (raise .commitFailed (.slot i) 1 s2)
    serveOwedCommit i (slotChanged i s3)
  else slotChanged i (faultCore i .noResponse fl.entry.kind s1)

/-- R87, R123: a withdrawn transaction ends. -/
def endWithdrawn (l : LineNo) (fl : Flight) (s : State) : State :=
  let s1 := setFlight l none s
  if fl.entry.kind = .usageWrite then serveOwedCommit fl.entry.slot s1 else s1

/-- R82: a failed try. -/
def failTry (l : LineNo) (fl : Flight) (s : State) : State :=
  if fl.withdrawn then endWithdrawn l fl s
  else if fl.tryNo < 3 then setFlight l (some { fl with phase := .pausing 10 }) s
  else exhaustTries l fl s

/-- R82: the end of a try with what came back. -/
def tryEnded (l : LineNo) (fl : Flight) (v : Verdict) (s : State) : State :=
  match v with
  | .ok p => if fl.withdrawn then endWithdrawn l fl s else succeed l fl (some p) false s
  | .refused => if fl.withdrawn then endWithdrawn l fl s else succeed l fl none true s
  | .neverWritten => if fl.withdrawn then endWithdrawn l fl s else succeed l fl none false s
  | .wait => failTry l fl (modCounters l (fun k => { k with waits := sat32 (k.waits + 1) }) s)
  | .check => failTry l fl (modCounters l (fun k => { k with checks := sat32 (k.checks + 1) }) s)

/-- ANSWER_FRAME: bytes that arrive while no answer is awaited, or after the 20 ms are over, are ignored (R82, log 14). -/
def answerFrame (l : LineNo) (a : AnswerFrame) (s : State) : State :=
  match (s.line l).flight with
  | some fl =>
    match fl.phase with
    | .awaiting (_ + 1) => tryEnded l fl (fl.entry.judge a) s
    | .awaiting 0 | .pausing _ => s
  | none => s

def execAnswerFrame (l : LineNo) (a : AnswerFrame) (s : State) : Host.Outcome State Fault Refusal := live (answerFrame l a) s

/-- ANSWER_TIMEOUT (R82): no effect before the 20 ms are over (log 14). -/
def answerTimeout (l : LineNo) (s : State) : State :=
  match (s.line l).flight with
  | some fl =>
    match fl.phase with
    | .awaiting 0 => failTry l fl (modCounters l (fun k => { k with timeouts := sat32 (k.timeouts + 1) }) s)
    | .awaiting (_ + 1) | .pausing _ => s
  | none => s

def execAnswerTimeout (l : LineNo) (s : State) : Host.Outcome State Fault Refusal := live (answerTimeout l) s

end Sys2Proof.Machine
end

