-- ==== Sys2Proof/Machine/Downstream.lean ====
section
/-!
DEFINITION. What arrives on the controller port: FIRING, SWATH_OPEN, SWATH_CLOSE, SWATH_EXPIRY, HEAD_CONTROL, MANAGEMENT,
CHECK_FAILURE, LOSS_OF_FRAMING (R28-R31, R42-R46, R57-R63, R191).
-/

namespace Sys2Proof.Machine

/-- A frame leaves the head port. -/
def forward (f : LinkFrame) (s : State) : State := { s with link := { s.link with headOut := s.link.headOut ++ [f] } }

/-- R58, R60: a good frame sets the failure count to 0, and regains a lost link. -/
def goodFrame (s : State) : State :=
  let t := { s with link := { s.link with state := .up, failures := 0, reception := none } }
  match s.link.state with
  | .up => t
  | .lost => raise .linkState .none 0 t

/-! ## FIRING (R28-R31, R62) -/

/-- The four drop codes of a byte (R69). -/
def codesOf (b : Byte) : List Nat := [b.toNat / 64 % 4, b.toNat / 16 % 4, b.toNat / 4 % 4, b.toNat % 4]

/-- The number of drop codes with value `v`. -/
def countCodes (v : Nat) (bs : List Byte) : Nat := (bs.map (fun b => (codesOf b).count v)).sum

/-- R30: the frame volume in vu. -/
def frameVolume (v : Volumes) (codes : List Byte) : Nat :=
  countCodes 1 codes * v.small + countCodes 2 codes * v.medium + countCodes 3 codes * v.large

/-- R62, R69: blanking sets every drop code to 0; header, waveform, nozzle count and line number are kept. -/
def blanked (f : FiringFrame) : FiringFrame := { f with codes := f.codes.map (fun _ => 0#8) }

/-- A frame's effect on the open swath record (R30, R31); none between swaths (R52). -/
def inSwath (g : OpenSwath → OpenSwath) (s : State) : State :=
  { s with tracker := { s.tracker with current := s.tracker.current.map g } }

/-- R28, R31: the frame goes out blanked and nothing is counted. -/
def blankFrame (f : FiringFrame) (s : State) : State :=
  inSwath (fun w => { w with blanked := sat32 (w.blanked + 1) }) (forward (blanked f).frame s)

/-- R29: the frame of an UNMAPPED head is discarded. -/
def discardFrame (h : HeadNo) (f : FiringFrame) (s : State) : State :=
  let s1 := inSwath (fun w => { w with discarded := sat32 (w.discarded + 1) }) s
  if nth s.meter.unmappedReported h then s1
  else raise .frameUnmapped (.head h) f.line.toNat
    { s1 with meter := { s1.meter with unmappedReported := upd s1.meter.unmappedReported h true } }

/-- R28, R30, R31: the frame goes out unchanged and its volume is charged to the channel. -/
def countFrame (c : ChannelNo) (f : FiringFrame) (v : Nat) (s : State) : State :=
  let s1 := inSwath (fun w =>
    { w with unchanged := sat32 (w.unchanged + 1), volumes := upd w.volumes c (volume64 (nth w.volumes c + v)) }) (forward f.frame s)
  addVolume c v s1

/-- R28: the drop meter's treatment of a frame for head `h`. -/
def meterFrame (h : HeadNo) (f : FiringFrame) (s : State) : State :=
  let e := nth s.meter.headMap h
  match e.channel with
  | none => discardFrame h f s
  | some c =>
    match (s.chan c).gate with
    | .closed => blankFrame f s
    | .opened =>
      let v := frameVolume (nth (nth s.meter.active e.set) f.waveform.toFin) f.codes
      if 2 ^ 64 ≤ (s.counter c).metered + v then blankFrame f s else countFrame c f v s

/-- R61's rows for a frame that is not taken by the meter, the tracker or the management unit. -/
def dispatchOther (f : LinkFrame) (s : State) : State :=
  if f.kind = 0x14#8 then (if addressOf f.hdr = s.link.bridge then s else forward f s)
  else if addressOf f.hdr = s.link.bridge then
    if f.kind = 0x10#8 ∧ s.mgmt.mode = .standby then s else raise .managementDiscard .none f.kind.toNat s
  else if f.kind = 0x10#8 ∧ s.mgmt.mode = .standby then s
  else forward f s

/-- FIRING (R62); a frame for an address that is no head's is taken by R61's other rows. -/
def firing (f : FiringFrame) (s : State) : State :=
  let s1 := goodFrame s
  match asFin 32 (addressOf f.hdr) with
  | some h => if s1.mgmt.mode = .standby then s1 else meterFrame h f s1
  | none => dispatchOther f.frame s1

def execFiring (f : FiringFrame) (s : State) : Host.Outcome State Fault Refusal := live (firing f) s

/-! ## Swath frames (R41-R46) -/

/-- R42, R43: a SWATH_OPEN at the tracker, which tracks in SETUP and RUN (R40). -/
def trackOpen (id : Nat) (s : State) : State := if s.mgmt.mode = .standby then s else openSwath id (closeSwath .cut s)

def execSwathOpen (hdr : Byte) (id : BitVec 16) (s : State) : Host.Outcome State Fault Refusal :=
  live (fun s => trackOpen id.toNat (forward (swathFrame 0x11#8 hdr id) (goodFrame s))) s

/-- R44, R45: a SWATH_CLOSE at the tracker. -/
def trackClose (id : Nat) (s : State) : State :=
  if s.mgmt.mode = .standby then s
  else match s.tracker.current with
    | some w => closeSwath (if w.id = id then .closed else .mismatched id) s
    | none => raise .swathIrregular .none (5 * 65536 + id) s

def execSwathClose (hdr : Byte) (id : BitVec 16) (s : State) : Host.Outcome State Fault Refusal :=
  live (fun s => trackClose id.toNat (forward (swathFrame 0x12#8 hdr id) (goodFrame s))) s

/-- R46: the elapsed count has reached the limit in force. -/
def OpenSwath.expired (w : OpenSwath) : Bool := w.limit != 0 && w.limit ≤ w.elapsed

/-- SWATH_EXPIRY: no effect before the limit is reached (log 14). -/
def execSwathExpiry (s : State) : Host.Outcome State Fault Refusal :=
  live (fun s => if s.tracker.current.any OpenSwath.expired then closeSwath .expired s else s) s

/-! ## Other frames (R61, R63, R191) -/

/-- HEAD_CONTROL: a good frame of another kind or address. FIRING frames for heads and swath frames are commands of their own:
given as this command they are ill-formed and nothing happens (log 17). -/
def execHeadControl (f : LinkFrame) (s : State) : Host.Outcome State Fault Refusal :=
  live (fun s => if (Instr.headControl f).wf then dispatchOther f (goodFrame s) else s) s

/-- R191. -/
def takeManagement (tag : Byte) (kind : BitVec 16) (args : List Byte) (s : State) : State :=
  if s.mgmt.queue.length < 4 then { s with mgmt := { s.mgmt with queue := s.mgmt.queue ++ [{ tag, kind, args }] } }
  else if 1 ≤ available s then placeResponse { tag, kind, status := .busy, results := [] } s
  else raise .managementDiscard .none (2 ^ 24 + tag.toNat * 65536 + kind.toNat) s

def execManagement (tag : Byte) (kind : BitVec 16) (args : List Byte) (s : State) : Host.Outcome State Fault Refusal :=
  live (fun s => takeManagement tag kind args (goodFrame s)) s

/-! ## Failures (R58-R60) -/

/-- R59: entry to LINK_LOST; cause 1 CHECK, 2 FRAMING (R167). The failure count stands at 3 while the link is lost (R60); that an
entry with cause FRAMING sets it there is read from R56 and R60 (log 20). -/
def loseLink (cause : Nat) (s : State) : State :=
  closeSwath .aborted (raise .linkState .none cause { s with link := { s.link with state := .lost, failures := 3 } })

/-- CHECK_FAILURE (R58, R60). -/
def checkFailure (kind : Byte) (s : State) : State :=
  match s.link.state with
  | .lost => s
  | .up =>
    let n := s.link.failures + 1
    let s1 := raise .linkCheckError .none (n * 256 + kind.toNat) { s with link := { s.link with failures := n } }
    if 3 ≤ n then loseLink 1 s1 else s1

def execCheckFailure (kind : Byte) (s : State) : Host.Outcome State Fault Refusal := live (checkFailure kind) s

/-- LOSS_OF_FRAMING (R58, R60): a partial frame is discarded. -/
def lossOfFraming (s : State) : State :=
  let t := { s with link := { s.link with reception := none } }
  match s.link.state with
  | .lost => t
  | .up => loseLink 2 t

def execLossOfFraming (s : State) : Host.Outcome State Fault Refusal := live lossOfFraming s

end Sys2Proof.Machine
end

