-- ==== Sys2Proof/Machine/SupplyRequests.lean ====
section
/-!
DEFINITION. Requests on channels, head map, volume table and counters: CHANNEL WRITE, CHANNEL LIMITS WRITE, CHANNEL READ, HEAD
MAP WRITE, HEAD MAP READ, VOLUME WRITE, VOLUME READ, CHANNEL COUNTERS CLEAR, CHANNEL DEBIT (R16-R20, R22, R23, R25, R27, R37, R38).
-/

namespace Sys2Proof.Machine

/-! ## CHANNEL WRITE (R16, R17) -/

/-- The arguments of CHANNEL WRITE: channel, ink, slot numbers, policy. -/
def channelWriteArgs : List Byte → Option (Nat × Nat × List Nat × Nat)
  | c :: ink :: n :: rest =>
    if rest.length = n.toNat + 1 then
      some (c.toNat, ink.toNat, (rest.take n.toNat).map (·.toNat), ofBe (rest.drop n.toNat))
    else none
  | _ => none

/-- Slot numbers as slots, if all of them are. -/
def asSlots : List Nat → Option (List SlotNo)
  | [] => some []
  | n :: ns =>
    match asFin 16 n, asSlots ns with
    | some i, some is => some (i :: is)
    | _, _ => none

/-- R17 step 1: an active slot that is not in the new feed list is cleared at once. -/
def clearActive (c : ChannelNo) (s : State) : State :=
  let ch := s.chan c
  match ch.active with
  | none => s
  | some a =>
    if ch.feed.contains a then s
    else
      let st : ChannelState := if ch.ink = 0 then .unused else .starved
      let s1 := reportSupply (s.setChan c { ch with active := none, state := st, gate := .closed, switched := true }) c
      retireCheck a (if ch.ink = 0 then s1 else raise .channelStarved (.channel c) a.val s1)

/-- R17 step 2: the states that are compared with the new ink type. -/
def SlotState.inkChecked (st : SlotState) : Bool := st.isChallenging || st.inService

/-- R17 step 2: one slot of the new feed list. -/
def inkCheck (ink : Nat) (s : State) (i : SlotNo) : State :=
  match (s.slot i).identity with
  | some id =>
    if (s.slot i).state.inkChecked ∧ id.ink ≠ ink then slotReported i (rejectCore i .inkType s) else s
  | none => s

/-- R17 step 3: one slot newly placed in the feed list. -/
def newSlotCheck (was : List SlotNo) (s : State) (i : SlotNo) : State :=
  if was.contains i = false ∧ ((s.slot i).state = .genuine ∨ (s.slot i).state = .suspect) then
    let r := levelCheckCore i (limitsOf s i) s
    if r.2 then slotReported i r.1 else r.1
  else s

/-- R17. The slots of steps 2 and 3 are taken in feed-list order: the model's choice, because R17 gives no order among them
(log 9). -/
def writeChannel (c : ChannelNo) (ink : Nat) (feed : List SlotNo) (p : Policy) (s : State) : State :=
  let was := (s.chan c).feed
  let s1 := clearActive c (s.setChan c { s.chan c with ink := ink, feed := feed, policy := p })
  let s2 := feed.foldl (inkCheck ink) s1
  selectionRun c (feed.foldl (newSlotCheck was) s2)

/-- R16: a slot of the list stands in another channel's feed list. -/
def fedElsewhere (s : State) (c : ChannelNo) (feed : List SlotNo) : Bool :=
  (List.finRange 8).any (fun d => d != c && feed.any (fun i => (s.chan d).feed.contains i))

def channelWrite (r : Request) (s : State) : State :=
  match channelWriteArgs r.args with
  | none => r.reply .badArgument [] s
  | some (c, ink, ns, p) =>
    if s.mgmt.mode ≠ .setup then r.reply .wrongMode [] s
    else match asFin 8 c, asSlots ns, asPolicy p with
      | some c, some feed, some p =>
        if 3 < feed.length ∨ ¬feed.Nodup ∨ (ink = 0 ∧ feed ≠ []) ∨ fedElsewhere s c feed then r.reply .badArgument [] s
        else r.reply .done [] (writeChannel c ink feed p s)
      | _, _, _ => r.reply .badArgument [] s

def execChannelWrite (s : State) : Host.Outcome State Fault Refusal := live (serving 1 channelWrite) s

/-! ## CHANNEL LIMITS WRITE (R18, R19) -/

/-- R18's ranges; any four bytes hold a low threshold. -/
def limitsOk (reserve step : Nat) : Bool := reserve ≤ 100000000 && (step == 0 || (1000 ≤ step && step ≤ 100000000))

/-- R18: held while a swath is open, otherwise applied at once. -/
def writeLimits (c : ChannelNo) (lim : Limits) (s : State) : State :=
  if s.swathOpen then s.setChan c { s.chan c with held := some lim } else applyLimits c lim s

def limitsWrite (vs : List Nat) (r : Request) (s : State) : State :=
  match vs with
  | [c, low, reserve, step] =>
    if s.mgmt.mode = .standby then r.reply .wrongMode [] s
    else match asFin 8 c with
      | some c =>
        if limitsOk reserve step then r.reply .done [] (writeLimits c { low, reserve, step } s) else r.reply .badArgument [] s
      | none => r.reply .badArgument [] s
  | _ => s

def execChannelLimitsWrite (s : State) : Host.Outcome State Fault Refusal := live (serving 2 (withArgs [1, 4, 4, 4] limitsWrite)) s

/-! ## CHANNEL READ (R20) -/

def encSlot (i : SlotNo) : List Byte := be 1 i.val

def encLimits (l : Limits) : List Byte := be 4 l.low ++ be 4 l.reserve ++ be 4 l.step

def encCounters (k : Counters) : List Byte :=
  be 8 k.metered ++ be 8 k.debited ++ be 8 k.overdraw ++ be 8 k.unattributed ++ be 2 k.remainder

def encChannel (ch : Channel) (k : Counters) : List Byte :=
  be 1 ch.ink ++ encList encSlot ch.feed ++ be 1 ch.policy.no ++ encLimits ch.limits ++ encOpt encLimits ch.held ++
    be 1 ch.state.no ++ encOpt encSlot ch.active ++ be 1 ch.gate.no ++ encFlag ch.selectionHeld ++ encFlag ch.switched ++
    encCounters k

def channelRead (vs : List Nat) (r : Request) (s : State) : State :=
  match vs with
  | [c] =>
    match asFin 8 c with
    | some c => r.reply .done (encChannel (s.chan c) (s.counter c)) s
    | none => r.reply .badArgument [] s
  | _ => s

def execChannelRead (s : State) : Host.Outcome State Fault Refusal := quiet (serving 3 (withArgs [1] channelRead)) s

/-! ## Head map (R22, R23) -/

/-- A mapping of the list: a channel 0-7 or UNMAPPED (FFh), and a volume set. -/
def asMapEntry (c set : Nat) : Option MapEntry :=
  match asFin 8 set with
  | none => none
  | some set => if c = 255 then some { channel := none, set } else (asFin 8 c).map (fun c => { channel := some c, set })

/-- The mappings that the list's bytes spell, if each is one. -/
def asMappings : List Byte → Option (List MapEntry)
  | [] => some []
  | [_] => none
  | c :: set :: rest =>
    match asMapEntry c.toNat set.toNat, asMappings rest with
    | some e, some es => some (e :: es)
    | _, _ => none

/-- The arguments of HEAD MAP WRITE: first head, number of mappings, their bytes. -/
def headMapArgs : List Byte → Option (Nat × Nat × List Byte)
  | h :: n :: rest => if rest.length = 2 * n.toNat then some (h.toNat, n.toNat, rest) else none
  | _ => none

/-- R22: one head's entry, and its unmapped-reported flag. -/
def writeMapEntry (h : HeadNo) (e : MapEntry) (s : State) : State :=
  { s with meter := { s.meter with
      headMap := upd s.meter.headMap h e, unmappedReported := upd s.meter.unmappedReported h false } }

/-- R22: consecutive heads from `first`. -/
def writeMap (first : Nat) : List MapEntry → State → State
  | [], s => s
  | e :: es, s =>
    match asFin 32 first with
    | some h => writeMap (first + 1) es (writeMapEntry h e s)
    | none => s

def headMapWrite (r : Request) (s : State) : State :=
  match headMapArgs r.args with
  | none => r.reply .badArgument [] s
  | some (first, n, bytes) =>
    if s.mgmt.mode ≠ .setup then r.reply .wrongMode [] s
    else if 32 ≤ first ∨ n = 0 ∨ 32 < first + n then r.reply .badArgument [] s
    else match asMappings bytes with
      | some es => r.reply .done [] (writeMap first es s)
      | none => r.reply .badArgument [] s

def execHeadMapWrite (s : State) : Host.Outcome State Fault Refusal := quiet (serving 4 headMapWrite) s

def encChannelOrUnmapped : Option ChannelNo → List Byte
  | some c => be 1 c.val
  | none => be 1 255

def encHeadMap (m : Meter) : List Byte :=
  (List.finRange 32).flatMap (fun h =>
    encChannelOrUnmapped (nth m.headMap h).channel ++ be 1 (nth m.headMap h).set.val ++ encFlag (nth m.unmappedReported h))

def headMapRead (_vs : List Nat) (r : Request) (s : State) : State := r.reply .done (encHeadMap s.meter) s

def execHeadMapRead (s : State) : Host.Outcome State Fault Refusal := quiet (serving 5 (withArgs [] headMapRead)) s

/-! ## Volume table (R25, R27) -/

/-- R25: three entries of the staged copy, which replaces the active one at once unless a swath is open. -/
def writeVolumes (set : SetNo) (w : WaveNo) (v : Volumes) (s : State) : State :=
  let staged := upd s.meter.staged set (upd (nth s.meter.staged set) w v)
  if s.swathOpen then { s with meter := { s.meter with staged := staged, stagedPending := true } }
  else { s with meter := { s.meter with staged := staged, active := staged } }

def volumeWrite (vs : List Nat) (r : Request) (s : State) : State :=
  match vs with
  | [set, w, small, medium, large] =>
    if s.mgmt.mode = .standby then r.reply .wrongMode [] s
    else match asFin 8 set, asFin 4 w with
      | some set, some w =>
        if small ≤ 4095 ∧ medium ≤ 4095 ∧ large ≤ 4095 then
          let t := writeVolumes set w { small, medium, large } s
          r.reply .done (encFlag t.meter.stagedPending) t
        else r.reply .badArgument [] s
      | _, _ => r.reply .badArgument [] s
  | _ => s

def execVolumeWrite (s : State) : Host.Outcome State Fault Refusal := quiet (serving 6 (withArgs [1, 1, 2, 2, 2] volumeWrite)) s

def encVolumes (v : Volumes) : List Byte := be 2 v.small ++ be 2 v.medium ++ be 2 v.large

def volumeRead (vs : List Nat) (r : Request) (s : State) : State :=
  match vs with
  | [set] =>
    match asFin 8 set with
    | some set =>
      r.reply .done (encTable encVolumes (nth s.meter.active set) ++ encTable encVolumes (nth s.meter.staged set) ++
        encFlag s.meter.stagedPending) s
    | none => r.reply .badArgument [] s
  | _ => s

def execVolumeRead (s : State) : Host.Outcome State Fault Refusal := quiet (serving 7 (withArgs [1] volumeRead)) s

/-! ## Counters (R37, R38) -/

/-- R37: one channel's counters and reporting flags, and the drop meter's report. -/
def clearCounters (s : State) (c : ChannelNo) : State :=
  reportMeter { s with meter := { s.meter with
      counters := upd s.meter.counters c {}
      overdrawReported := upd s.meter.overdrawReported c false
      unattributedReported := upd s.meter.unattributedReported c false } } c

/-- A number that names one member, or ALL (FFh). -/
def asMembers (n v : Nat) : Option (List (Fin n)) := if v = 255 then some (List.finRange n) else (asFin n v).map (fun i => [i])

def countersClear (vs : List Nat) (r : Request) (s : State) : State :=
  match vs with
  | [c] =>
    match asMembers 8 c with
    | some cs => r.reply .done [] (cs.foldl clearCounters s)
    | none => r.reply .badArgument [] s
  | _ => s

def execChannelCountersClear (s : State) : Host.Outcome State Fault Refusal := live (serving 8 (withArgs [1] countersClear)) s

def channelDebit (vs : List Nat) (r : Request) (s : State) : State :=
  match vs with
  | [c, amount] =>
    if s.mgmt.mode = .standby then r.reply .wrongMode [] s
    else match asFin 8 c with
      | none => r.reply .badArgument [] s
      | some c =>
        if amount < 1 ∨ 1000000 < amount then r.reply .badArgument [] s
        else if (s.chan c).state = .unused then r.reply .badState [] s
        else if 2 ^ 64 ≤ (s.counter c).metered + amount * 10000 then r.reply .full [] s
        else
          let p := placing s c amount
          r.reply .done (be 4 p.taken ++ be 4 p.overdraw ++ be 4 p.unattributed) (addVolume c (amount * 10000) s)
  | _ => s

def execChannelDebit (s : State) : Host.Outcome State Fault Refusal := live (serving 9 (withArgs [1, 4] channelDebit)) s

end Sys2Proof.Machine
end

