-- ==== Sys2Proof/Machine/SwathRequests.lean ====
section
/-!
DEFINITION. Requests on swaths and lines: SWATH LIMIT WRITE, SWATH READ, LINE READ (R53, R54, R92).
-/

namespace Sys2Proof.Machine

/-- R53: at once while IDLE, held while OPEN. -/
def writeSwathLimit (n : Nat) (s : State) : State :=
  { s with tracker := if s.swathOpen then { s.tracker with heldLimit := some n } else { s.tracker with limit := n } }

def swathLimitWrite (vs : List Nat) (r : Request) (s : State) : State :=
  match vs with
  | [n] =>
    if s.mgmt.mode = .standby then r.reply .wrongMode [] s
    else if n = 0 ∨ (10 ≤ n ∧ n ≤ 60000) then
      let t := writeSwathLimit n s
      r.reply .done (be 2 t.tracker.limit ++ encOpt (be 2) t.tracker.heldLimit) t
    else r.reply .badArgument [] s
  | _ => s

def execSwathLimitWrite (s : State) : Host.Outcome State Fault Refusal := quiet (serving 10 (withArgs [2] swathLimitWrite)) s

/-- R54: the open swath record. -/
def encOpenSwath (w : OpenSwath) : List Byte :=
  be 2 w.id ++ be 6 w.openTime ++ be 4 w.elapsed ++ be 2 w.limit ++ encTable (be 8) w.volumes ++ be 4 w.unchanged ++ be 4 w.blanked ++
    be 4 w.discarded

/-- R49, R54: a record of the ring. -/
def encSwathRecord (w : SwathRecord) : List Byte :=
  be 2 w.id ++ be 1 w.outcome.no ++ encOpt (be 2) w.outcome.closeId ++ be 6 w.openTime ++ be 4 w.duration ++ encTable (be 8) w.volumes ++
    be 4 w.unchanged ++ be 4 w.blanked ++ be 4 w.discarded

/-- SWATH READ (R54). The open record is encoded as one optional value, a presence byte before the whole of it: the model's reading
of R70 (log 12). -/
def swathRead (vs : List Nat) (r : Request) (s : State) : State :=
  match vs with
  | [first, count] =>
    if first ≤ 15 ∧ 1 ≤ count ∧ count ≤ 16 then
      let t := s.tracker
      r.reply .done (be 1 (flagNo s.swathOpen) ++ encOpt encOpenSwath t.current ++ be 2 t.limit ++ encOpt (be 2) t.heldLimit ++
        be 1 t.ring.length ++ be 4 t.closes ++ encList encSwathRecord ((t.ring.drop first).take count)) s
    else r.reply .badArgument [] s
  | _ => s

def execSwathRead (s : State) : Host.Outcome State Fault Refusal := quiet (serving 11 (withArgs [1, 1] swathRead)) s

def encIndex (n : RecNo) : List Byte := be 1 n.val

/-- R92: a queued entry. -/
def encEntry (e : TxEntry) : List Byte := encSlot e.slot ++ be 1 e.kind.no ++ be 1 e.origin.no ++ encOpt encIndex e.record

/-- R92: the transaction in flight. -/
def encFlight (fl : Flight) : List Byte := encEntry fl.entry ++ be 1 fl.tryNo ++ encFlag fl.withdrawn

def encOwed (o : Owed) : List Byte := be 1 o.mask ++ encOpt encIndex o.recordRead

def encLine (ln : Line) : List Byte :=
  be 1 ln.condition.no ++ be 1 ln.free ++ encList encEntry ln.queue ++ encOpt encFlight ln.flight ++ encTable encOwed ln.owed ++
    be 4 ln.counters.completed ++ be 4 ln.counters.failed ++ be 4 ln.counters.timeouts ++ be 4 ln.counters.waits ++
    be 4 ln.counters.checks

def lineRead (vs : List Nat) (r : Request) (s : State) : State :=
  match vs with
  | [l] =>
    match asFin 4 l with
    | some l => r.reply .done (encLine (s.line l)) s
    | none => r.reply .badArgument [] s
  | _ => s

def execLineRead (s : State) : Host.Outcome State Fault Refusal := quiet (serving 12 (withArgs [1] lineRead)) s

end Sys2Proof.Machine
end

