-- ==== Sys2Proof/Machine/EventRequests.lean ====
section
/-!
DEFINITION. Requests on events, routes and conditions: EVENT READ, EVENT INSERT, ROUTE WRITE, ROUTE READ, CONDITION READ (R171-R173,
R176).
-/

namespace Sys2Proof.Machine

/-! ## Events (R171, R172) -/

def encEvent (e : Event) : List Byte :=
  be 6 e.time ++ be 1 e.kind.no ++ be 1 e.subject.typeNo ++ be 1 e.subject.no ++ be 4 e.detail

/-- R171: the results of a read of `n` entries. -/
def readEvents (n : Nat) (u : EventUnit) : List Byte :=
  encList encEvent (u.queue.take n) ++ be 2 (u.queue.drop n).length ++ encFlag u.overrun

def eventRead (vs : List Nat) (r : Request) (s : State) : State :=
  match vs with
  | [n] =>
    if 1 ≤ n ∧ n ≤ 16 then
      r.reply .done (readEvents n s.events)
        { s with events := { s.events with queue := s.events.queue.drop n, overrun := false } }
    else r.reply .badArgument [] s
  | _ => s

def execEventRead (s : State) : Host.Outcome State Fault Refusal := quiet (serving 33 (withArgs [1] eventRead)) s

def eventInsert (vs : List Nat) (r : Request) (s : State) : State :=
  match vs with
  | [t, n, d] =>
    match asSubject t n with
    | some subj =>
      let s1 := raise .testEntry subj d s
      r.reply .done (be 2 s1.events.queue.length) s1
    | none => r.reply .badArgument [] s
  | _ => s

def execEventInsert (s : State) : Host.Outcome State Fault Refusal := quiet (serving 34 (withArgs [1, 1, 4] eventInsert)) s

/-! ## Routes (R173) -/

/-- A kind 1-28, or ALL (FFh). -/
def asKinds (n : Nat) : Option (List (Fin 28)) :=
  if n = 255 then some (List.finRange 28) else if n = 0 then none else (asFin 28 (n - 1)).map (fun k => [k])

def setRoute (x : Route) (s : State) (k : Fin 28) : State := { s with events := { s.events with routes := upd s.events.routes k x } }

def routeWrite (vs : List Nat) (r : Request) (s : State) : State :=
  match vs with
  | [k, q, n] =>
    match asKinds k, asFlag q, asFlag n with
    | some ks, some q, some n => r.reply .done [] (ks.foldl (setRoute { queue := q, notify := n }) s)
    | _, _, _ => r.reply .badArgument [] s
  | _ => s

def execRouteWrite (s : State) : Host.Outcome State Fault Refusal := quiet (serving 35 (withArgs [1, 1, 1] routeWrite)) s

def encRoute (x : Route) : List Byte := encFlag x.queue ++ encFlag x.notify

def routeRead (_vs : List Nat) (r : Request) (s : State) : State := r.reply .done (encTable encRoute s.events.routes) s

def execRouteRead (s : State) : Host.Outcome State Fault Refusal := quiet (serving 36 (withArgs [] routeRead)) s

/-! ## Conditions (R176) -/

/-- The live values and the latches of one slot condition, as masks. -/
def encSlotCondition (u : EventUnit) (k : Condition) : List Byte :=
  be 2 (maskNo 16 (fun i => (nth u.slotLive i).value k)) ++ be 2 (maskNo 16 (fun i => (nth u.slotLatch i).value k))

def encChannelCondition (u : EventUnit) (k : Condition) : List Byte :=
  be 1 (maskNo 8 (fun c => (nth u.channelLive c).value k)) ++ be 1 (maskNo 8 (fun c => (nth u.channelLatch c).value k))

/-- R176: the results, in R174's order. -/
def encConditions (u : EventUnit) : List Byte :=
  [Condition.present, .authentic, .low, .depleted, .rejected, .suspect, .faulted, .auditFail].flatMap (encSlotCondition u) ++
    [Condition.starved, .overdraw, .switched].flatMap (encChannelCondition u)

/-- R176: every latch is reloaded in one step, and the indicators are evaluated once. -/
def reloadLatches (s : State) : State :=
  evaluateAll { s with events := { s.events with slotLatch := s.events.slotLive, channelLatch := s.events.channelLive } }

def conditionRead (vs : List Nat) (r : Request) (s : State) : State :=
  match vs with
  | [c] =>
    match asFlag c with
    | some clear => r.reply .done (encConditions s.events) (if clear then reloadLatches s else s)
    | none => r.reply .badArgument [] s
  | _ => s

def execConditionRead (s : State) : Host.Outcome State Fault Refusal := quiet (serving 37 (withArgs [1] conditionRead)) s

end Sys2Proof.Machine
end

