-- ==== Sys2Proof/Machine/Indicators.lean ====
section
/-!
DEFINITION. The panel: INDICATOR_TIMER_EXPIRY, BLINK_PHASE, INDICATOR WRITE, INDICATOR RELEASE, INDICATOR READ (R180-R184).
-/

namespace Sys2Proof.Machine

/-! ## Timers (R180, R181) -/

/-- INDICATOR_TIMER_EXPIRY: no effect before the timer has run out (log 14). -/
def timerExpiry (i : IndNo) (s : State) : State :=
  let d := nth s.indicators i
  if d.timer = some 0 then s.setIndicator i { d.deactivate with timer := none } else s

def execIndicatorTimerExpiry (i : IndNo) (s : State) : Host.Outcome State Fault Refusal := quiet (timerExpiry i) s

/-- R181: the end of the on-time or of the period, for a pattern of the given period and on-time. -/
def Indicator.blink (d : Indicator) (period onTime : Nat) : Indicator :=
  if d.blinkOn then (if onTime ≤ d.blinkMs then { d with blinkOn := false } else d)
  else if period ≤ d.blinkMs then { d with blinkOn := true, blinkMs := d.blinkMs - period }
  else d

/-- BLINK_PHASE: no effect before the on-time or the period is over (log 14). -/
def blinkPhase (i : IndNo) (s : State) : State :=
  let d := nth s.indicators i
  match d.fields.drive with
  | .solid => s
  | .blink p => if d.active then s.setIndicator i (d.blink (blinkPattern p).1 (blinkPattern p).2) else s

def execBlinkPhase (i : IndNo) (s : State) : Host.Outcome State Fault Refusal := quiet (blinkPhase i) s

/-! ## INDICATOR WRITE (R177, R182) -/

/-- The scope and the mask's width in bytes. -/
def asScope : Nat → Option (Scope × Nat)
  | 0 => some (.slot, 2)
  | 1 => some (.channel, 1)
  | _ => none

/-- R70, R177: ANY 0, ALL FFh. -/
def asReduce : Nat → Option Reduce
  | 0 => some .any
  | 255 => some .all
  | _ => none

def asSource : Nat → Option ValueSource
  | 0 => some .live
  | 1 => some .latched
  | _ => none

/-- An operand at the head of the argument bytes, and the bytes after it. A channel mask is one byte, so that it names no member
beyond 7. -/
def takeOperand : List Byte → Option (Operand × List Byte)
  | sc :: k :: rest =>
    match asScope sc.toNat, asCondition k.toNat with
    | some (scope, w), some condition =>
      match fields [1, 1, 1] ((rest.drop w).take 3), decide (condition.scope = scope) with
      | some [red, src, inv], true =>
        match asReduce red, asSource src, asFlag inv with
        | some reduce, some source, some invert =>
          some ({ scope, condition, mask := BitVec.ofNat 16 (ofBe (rest.take w)), reduce, source, invert }, rest.drop (w + 3))
        | _, _, _ => none
      | _, _ => none
    | _, _ => none
  | _ => none

/-- Combine and operand 2: absent with NONE, present with OR, AND and XOR. -/
def takeSecond : List Byte → Option (Option (CombineOp × Operand) × List Byte)
  | c :: has :: rest =>
    match c.toNat, has.toNat with
    | 0, 0 => some (none, rest)
    | 1, 1 => (takeOperand rest).map (fun p => (some (.or, p.1), p.2))
    | 2, 1 => (takeOperand rest).map (fun p => (some (.and, p.1), p.2))
    | 3, 1 => (takeOperand rest).map (fun p => (some (.xor, p.1), p.2))
    | _, _ => none
  | _ => none

def asIndMode : Nat → Option IndMode
  | 0 => some .steady
  | 1 => some .pulse
  | 2 => some .extend
  | 3 => some .toggle
  | _ => none

/-- The drive: SOLID, or BLINK and its pattern. -/
def takeDrive : List Byte → Option (Drive × List Byte)
  | d :: rest =>
    match d.toNat, rest with
    | 0, _ => some (.solid, rest)
    | 1, p :: rest2 => (asFin 8 p.toNat).map (fun n => (.blink n, rest2))
    | _, _ => none
  | [] => none

def asPolarity : Nat → Option Polarity
  | 0 => some .activeHigh
  | 1 => some .activeLow
  | _ => none

/-- Mode, drive, delay and polarity, which end the arguments. -/
def takeTail (enabled : Bool) (o1 : Operand) (second : Option (CombineOp × Operand)) : List Byte → Option IndFields
  | m :: rest =>
    match asIndMode m.toNat, takeDrive rest with
    | some mode, some (drive, [delay, pol]) =>
      (asPolarity pol.toNat).map (fun polarity =>
        { enabled, operand1 := o1, second, mode, drive, delay := delay.toNat, polarity })
    | _, _ => none
  | [] => none

/-- The arguments of INDICATOR WRITE, if every value stands in its set. -/
def indicatorArgs : List Byte → Option (IndNo × IndFields)
  | n :: en :: rest =>
    match asFin 8 n.toNat, asFlag en.toNat, takeOperand rest with
    | some n, some en, some (o1, rest1) =>
      match takeSecond rest1 with
      | some (second, rest2) => (takeTail en o1 second rest2).map (fun f => (n, f))
      | none => none
    | _, _, _ => none
  | _ => none

/-- R182: fields replaced, running state restarted, and the entry evaluated if it is enabled. -/
def restarted (u : EventUnit) (f : IndFields) : Indicator := ({ fields := f } : Indicator).evaluate u

/-- ACTIVE 0, INACTIVE 1 (R70, R177). -/
def encOutput (d : Indicator) : List Byte := be 1 (flagNo (!d.active))

def indicatorWrite (r : Request) (s : State) : State :=
  match indicatorArgs r.args with
  | none => r.reply .badArgument [] s
  | some (n, f) =>
    let d := restarted s.events f
    r.reply .done (encFlag d.result ++ encOutput d) (s.setIndicator n d)

def execIndicatorWrite (s : State) : Host.Outcome State Fault Refusal := quiet (serving 38 indicatorWrite) s

/-! ## INDICATOR RELEASE (R183) -/

def releaseOne (s : State) (i : IndNo) : State :=
  let d := nth s.indicators i
  if d.fields.enabled then s.setIndicator i d.release else s

def indicatorRelease (vs : List Nat) (r : Request) (s : State) : State :=
  match vs with
  | [n] =>
    match asMembers 8 n with
    | none => r.reply .badArgument [] s
    | some is =>
      if n ≠ 255 ∧ is.any (fun i => !(nth s.indicators i).fields.enabled) then r.reply .badState [] s
      else
        let t := is.foldl releaseOne s
        r.reply .done (is.flatMap (fun i => encOutput (nth t.indicators i))) t
  | _ => s

def execIndicatorRelease (s : State) : Host.Outcome State Fault Refusal := quiet (serving 39 (withArgs [1] indicatorRelease)) s

/-! ## INDICATOR READ (R184) -/

def Scope.no : Scope → Nat
  | .slot => 0
  | .channel => 1

/-- R184, in the order of R177. -/
def encOperand (o : Operand) : List Byte :=
  be 1 o.scope.no ++ be 1 o.condition.no ++ be (match o.scope with
    | .slot => 2
    | .channel => 1) o.mask.toNat ++
    be 1 (match o.reduce with
      | .any => 0
      | .all => 255) ++
    be 1 (match o.source with
      | .live => 0
      | .latched => 1) ++ encFlag o.invert

def encDrive : Drive → List Byte
  | .solid => be 1 0
  | .blink p => be 1 1 ++ be 1 p.val

def encFields (f : IndFields) : List Byte :=
  encFlag f.enabled ++ encOperand f.operand1 ++ be 1 ((f.second.map (fun x => x.1.no)).getD 0) ++
    encOpt (fun x : CombineOp × Operand => encOperand x.2) f.second ++ be 1 f.mode.no ++ encDrive f.drive ++ be 1 f.delay ++
    be 1 (match f.polarity with
      | .activeHigh => 0
      | .activeLow => 1)

/-- The line level: high 0, low 1 (log 12). -/
def encIndicator (d : Indicator) : List Byte :=
  encFields d.fields ++ encFlag d.result ++ encOutput d ++ encOpt (be 2) d.timer ++ encFlag d.hold ++ be 1 (flagNo (!d.lineHigh))

def indicatorRead (_vs : List Nat) (r : Request) (s : State) : State := r.reply .done (encTable encIndicator s.indicators) s

def execIndicatorRead (s : State) : Host.Outcome State Fault Refusal := quiet (serving 40 (withArgs [] indicatorRead)) s

end Sys2Proof.Machine
end

