-- ==== Sys2Proof/Machine/Stores.lean ====
section
/-!
DEFINITION. The non-volatile stores: SCAN_END, HISTORY_WRITE_END, KEY_WRITE_END (R88, R90, R107-R109, R132, R134).
-/

namespace Sys2Proof.Machine

/-- R130, R134: an IN_USE entry becomes REMOVED at the end of the scan. -/
def scanPlace (s : State) (n : HistNo) : State :=
  match s.history.entry n with
  | some e =>
    if e.state = .inUse then
      { s with history := s.history.put n (some { e with state := .removed, lastSeen := s.mgmt.partTime }) }
    else s
  | none => s

/-- R88, R90: the hold is lifted. -/
def Line.release (m : Mode) (ln : Line) : Line :=
  match ln.condition with
  | .held => { ln with condition := if m = .standby then .draining else .running }
  | .running | .draining | .stopped => ln

/-- SCAN_END (R134). The entries made REMOVED join the pending writes in ascending index order, which decides which of them a power loss
still finds unwritten: the model's choice, because R134 gives no order among them (log 9). -/
def scanEnd (s : State) : State :=
  if s.history.scanning then
    let s1 := (List.finRange 64).foldl scanPlace s
    { s1 with
      history := { s1.history with scanning := false }
      lines := tab fun l => (nth s1.lines l).release s1.mgmt.mode }
  else s

def execScanEnd (s : State) : Host.Outcome State Fault Refusal := live scanEnd s

/-- HISTORY_WRITE_END (R132): the cells take the image the write carried; the next write starts in `settle`. -/
def historyWriteEnd (s : State) : State :=
  match s.history.writing with
  | some w => { s with history := { s.history with cells := upd s.history.cells w.index w.image, writing := none } }
  | none => s

def execHistoryWriteEnd (s : State) : Host.Outcome State Fault Refusal := live historyWriteEnd s

/-- R107: the next waiting key write starts. -/
def KeyStore.advance (k : KeyStore) : KeyStore :=
  match k.current, k.waiting with
  | none, w :: rest => { k with current := some w, waiting := rest }
  | _, _ => k

/-- R107: a key write joins those waiting, and starts at once if none is in progress. -/
def KeyStore.enter (k : KeyStore) (w : KeyWrite) : KeyStore := ({ k with waiting := k.waiting ++ [w] } : KeyStore).advance

/-- KEY_WRITE_END (R107-R109): cells and working image take the write, and the waiting response DONE is placed. -/
def keyWriteEnd (s : State) : State :=
  match s.keys.current with
  | some w =>
    let k : KeyStore :=
      { s.keys with cells := upd s.keys.cells w.key w.entry, image := upd s.keys.image w.key w.entry, current := none }
    respond w.tag w.kind .done [] { s with keys := k.advance }
  | none => s

def execKeyWriteEnd (s : State) : Host.Outcome State Fault Refusal := quiet keyWriteEnd s

end Sys2Proof.Machine
end

