-- ==== Sys2Proof/Machine/KeyRequests.lean ====
section
/-!
DEFINITION. Requests on the key table and the deny list: KEY LOAD, KEY REVOKE, KEY STATUS, DENY ADD, DENY REMOVE, DENY READ
(R107-R112).
-/

namespace Sys2Proof.Machine

/-- R108: a KEY LOAD of the entry waits or is in progress. -/
def loadPending (k : KeyStore) (n : KeyNo) : Bool :=
  (k.current.toList ++ k.waiting).any (fun w => w.key == n && match w.entry with
    | .loaded _ => true
    | .empty | .revoked _ => false)

/-- The arguments of KEY LOAD: key id and secret. -/
def keyLoadArgs : List Byte → Option (Nat × BitVec 128)
  | k :: rest => if rest.length = 16 then some (k.toNat, BitVec.ofNat 128 (ofBe rest)) else none
  | [] => none

def enterWrite (r : Request) (n : KeyNo) (e : KeyEntry) (s : State) : State :=
  { s with keys := s.keys.enter { key := n, entry := e, tag := r.tag, kind := r.kind } }

def keyLoad (r : Request) (s : State) : State :=
  match keyLoadArgs r.args with
  | none => r.reply .badArgument [] s
  | some (k, secret) =>
    if s.mgmt.mode ≠ .setup then r.reply .wrongMode [] s
    else match asFin 8 k with
      | none => r.reply .badArgument [] s
      | some n =>
        if loadPending s.keys n then r.reply .badState [] s
        else match nth s.keys.image n with
          | .loaded _ => r.reply .badState [] s
          | .revoked old => if old = secret then r.reply .badArgument [] s else enterWrite r n (.loaded secret) s
          | .empty => enterWrite r n (.loaded secret) s

def execKeyLoad (s : State) : Host.Outcome State Fault Refusal := quiet (serving 13 keyLoad) s

/-- R109, R111: the states in which a revocation or a deny addition rejects a slot. -/
def SlotState.revocable (st : SlotState) : Bool := st.isChallenging || st.authenticated

/-- R109, R111: a slot that `named` names is rejected at once. -/
def rejectNamed (named : Identity → Bool) (r : RejectReason) (s : State) (i : SlotNo) : State :=
  if (s.slot i).state.revocable ∧ (s.slot i).identity.any named then reject i r s else s

/-- R109, R111: every slot named, in ascending order. -/
def rejectAll (named : Identity → Bool) (r : RejectReason) (s : State) : State :=
  (List.finRange 16).foldl (rejectNamed named r) s

def keyRevoke (vs : List Nat) (r : Request) (s : State) : State :=
  match vs with
  | [k] =>
    if s.mgmt.mode ≠ .setup then r.reply .wrongMode [] s
    else match asFin 8 k with
      | none => r.reply .badArgument [] s
      | some n =>
        match nth s.keys.image n with
        | .empty => r.reply .badState [] s
        | .revoked _ => r.reply .done [] s
        | .loaded secret =>
          let s1 := { s with keys := { s.keys with image := upd s.keys.image n (.revoked secret) } }
          enterWrite r n (.revoked secret) (rejectAll (fun id => id.keyId == n.val) .keyRevoked s1)
  | _ => s

def execKeyRevoke (s : State) : Host.Outcome State Fault Refusal := live (serving 14 (withArgs [1] keyRevoke)) s

def keyStatus (_vs : List Nat) (r : Request) (s : State) : State :=
  r.reply .done (encTable (fun e : KeyEntry => be 1 e.no) s.keys.image ++ encFlag s.keys.current.isSome) s

def execKeyStatus (s : State) : Host.Outcome State Fault Refusal := quiet (serving 15 (withArgs [] keyStatus)) s

/-! ## Deny list (R111, R112) -/

def denyAdd (vs : List Nat) (r : Request) (s : State) : State :=
  match vs with
  | [first, last] =>
    if s.mgmt.mode ≠ .setup then r.reply .wrongMode [] s
    else if last < first then r.reply .badArgument [] s
    else if 32 ≤ s.deny.length then r.reply .full [] s
    else
      let s1 := { s with deny := s.deny ++ [{ first, last }] }
      rejectAll (fun id => first ≤ id.serial && id.serial ≤ last) .denied (r.reply .done (be 1 s1.deny.length) s1)
  | _ => s

def execDenyAdd (s : State) : Host.Outcome State Fault Refusal := live (serving 16 (withArgs [6, 6] denyAdd)) s

def denyRemove (vs : List Nat) (r : Request) (s : State) : State :=
  match vs with
  | [n] =>
    if s.mgmt.mode ≠ .setup then r.reply .wrongMode [] s
    else if s.deny.length ≤ n then r.reply .notFound [] s
    else r.reply .done (be 1 (s.deny.length - 1)) { s with deny := s.deny.eraseIdx n }
  | _ => s

def execDenyRemove (s : State) : Host.Outcome State Fault Refusal := quiet (serving 17 (withArgs [1] denyRemove)) s

def encRange (d : DenyRange) : List Byte := be 6 d.first ++ be 6 d.last

/-- DENY READ (R112). The number of ranges is the list's own count byte (R70) and is not sent a second time: the model's reading
(log 12). -/
def denyRead (_vs : List Nat) (r : Request) (s : State) : State := r.reply .done (encList encRange s.deny) s

def execDenyRead (s : State) : Host.Outcome State Fault Refusal := quiet (serving 18 (withArgs [] denyRead)) s

end Sys2Proof.Machine
end

