-- ==== Sys2Proof/Machine/Ticks.lean ====
section
/-!
DEFINITION. The tag schedule's tick and the re-challenge it shares with SLOT RECHALLENGE: SCHEDULE_TICK (R104, R156-R164).
-/

namespace Sys2Proof.Machine

/-- R104: a re-challenge of a slot in service, and whether the line took it. -/
def startRechallenge (i : SlotNo) (o : Origin) (s : State) : State × Bool :=
  match (s.slot i).state.asReturn with
  | none => (s, false)
  | some r =>
    let p := place i .challenge o none s
    if p.2 then (slotChanged i (p.1.setSlotState i (.challenging (.rechallenge r))), true) else (s, false)

/-- R160: eligible, and not pending. -/
def notSkipped (s : State) (e : SchedEntry) : Bool :=
  let sl := s.slot e.slot
  sl.state.inService &&
    match e.kind with
    | .rechallenge => !isPending s e.slot .challenge
    | .commit => sl.committed < sl.consumed && !isPending s e.slot .usageWrite
    | .audit => true

/-- R164: the causes of a miss. -/
inductive MissCause where
  | lineFull | auditBusy
  deriving DecidableEq, Repr

def MissCause.no : MissCause → Nat
  | .lineFull => 0
  | .auditBusy => 1

/-- R161-R163: an entry that is not skipped is placed, or missed for a cause. -/
def placeWork (e : SchedEntry) (s : State) : State × Option MissCause :=
  match e.kind with
  | .rechallenge =>
    let r := startRechallenge e.slot .schedule s
    (r.1, if r.2 then none else some .lineFull)
  | .commit =>
    let r := trigger e.slot .schedule s
    (r.1, if r.2 then none else some .lineFull)
  | .audit =>
    if s.audit.state.active then (s, some .auditBusy)
    else if (s.line (lineOf e.slot)).free < 4 then (s, some .lineFull)
    else (startAudit e.slot .once false s, none)

def setEntry (n : SchedNo) (e : SchedEntry) (s : State) : State :=
  { s with schedule := { s.schedule with entries := upd s.schedule.entries n e } }

/-- R164. -/
def miss (n : SchedNo) (c : MissCause) (s : State) : State :=
  let e := nth s.schedule.entries n
  let k := min (e.missed + 1) 255
  raise .scheduleMiss (.entry n) (e.kind.no * 2 ^ 24 + e.slot.val * 2 ^ 16 + c.no * 256 + k) (setEntry n { e with missed := k } s)

/-- R160 step 3. -/
def advance (n : SchedNo) (s : State) : State :=
  let e := nth s.schedule.entries n
  setEntry n { e with nextDue := tick48 (e.nextDue + e.period) } s

/-- R160: one entry at a tick. -/
def takeEntry (s : State) (n : SchedNo) : State :=
  let e := nth s.schedule.entries n
  if e.enabled ∧ e.nextDue ≤ s.schedule.tick then
    if notSkipped s e then
      let r := placeWork e s
      advance n (match r.2 with
        | none => r.1
        | some c => miss n c r.1)
    else advance n s
  else s

/-- R160. All 64 entries are taken in one step, so that a line event or a slot change that falls together with the tick comes before or
after all of them and never between two: the model's choice, because R160 leaves open between which entries it comes (log 22). -/
def processTable (s : State) : State := (List.finRange 64).foldl takeEntry s

/-- R157: a RUN is applied. -/
def applyRunAction (s : State) : State :=
  { s with schedule := { s.schedule with
      running := true, action := .none, tick := 0,
      entries := tab fun n =>
        let e := nth s.schedule.entries n
        if e.enabled then { e with nextDue := e.offset } else e } }

/-- R156: a tick. -/
def scheduleStep (s : State) : State :=
  match s.schedule.action with
  | .run => processTable (applyRunAction s)
  | .halt => { s with schedule := { s.schedule with running := false, action := .none } }
  | .none =>
    if s.schedule.running then
      processTable { s with schedule := { s.schedule with tick := tick48 (s.schedule.tick + 1) } }
    else s

/-- SCHEDULE_TICK (R156): no effect before 10 ms have gone by (log 14). -/
def scheduleTick (s : State) : State :=
  if 10 ≤ s.schedule.sinceTick then
    scheduleStep { s with schedule := { s.schedule with sinceTick := s.schedule.sinceTick - 10 } }
  else s

def execScheduleTick (s : State) : Host.Outcome State Fault Refusal := live scheduleTick s

end Sys2Proof.Machine
end

