-- ==== Sys2Proof/Machine/SlotRequests.lean ====
section
/-!
DEFINITION. Requests on slots: SLOT READ, SLOT RETRY, SLOT RECHALLENGE, TEST WRITE ARM (R113-R115, R125).
-/

namespace Sys2Proof.Machine

/-! ## SLOT READ (R113, in the order of R93) -/

def SlotState.rejectReason : SlotState → Option RejectReason
  | .rejected r => some r
  | _ => none

def SlotState.faultReason : SlotState → Option FaultReason
  | .faulted r => some r
  | _ => none

def SlotState.challenge : SlotState → Option Challenge
  | .challenging c => some c
  | _ => none

def encIdentity (id : Identity) : List Byte :=
  be 6 id.serial ++ be 1 id.ink ++ be 4 id.capacity ++ be 1 id.keyId ++ be 2 id.fillDate ++ be 4 id.writeCounter

def encSlotRecord (i : SlotNo) (sl : Slot) (p : Presence) : List Byte :=
  encSlot i ++ be 1 sl.state.no ++ encOpt (fun r : RejectReason => be 1 r.no) sl.state.rejectReason ++
    encOpt (fun r : FaultReason => be 1 r.no) sl.state.faultReason ++ encOpt encIdentity sl.identity ++
    encOpt (fun c : Challenge => be 1 c.no) sl.state.challenge ++ encOpt (fun r : ReturnState => be 1 r.no) sl.state.returning ++
    be 4 sl.consumed ++ be 4 sl.committed ++ be 4 sl.sequence ++ be 1 sl.evidence.mask ++ encFlag sl.low ++ encFlag sl.auditFail ++
    encFlag sl.owedCommit ++ encOpt (be 6) sl.lastAuth ++ encFlag p.closed ++ encOpt (be 1) p.timer ++ encFlag p.wakeMark

def slotRead (vs : List Nat) (r : Request) (s : State) : State :=
  match vs with
  | [n] =>
    match asFin 16 n with
    | some i => r.reply .done (encSlotRecord i (s.slot i) (nth s.presence i)) s
    | none => r.reply .badArgument [] s
  | _ => s

def execSlotRead (s : State) : Host.Outcome State Fault Refusal := quiet (serving 19 (withArgs [1] slotRead)) s

/-! ## SLOT RETRY (R114) -/

def SlotState.retriable : SlotState → Bool
  | .rejected _ | .faulted _ => true
  | .empty | .settling | .identifying | .challenging _ | .genuine | .suspect | .depleted | .retiring _ | .exhausted => false

/-- R114, R95: the record is reported as removed, cleared, and sent back to IDENTIFYING. -/
def retrySlot (i : SlotNo) (s : State) : State :=
  slotChanged i (request i .identify ((historyRemoval i s).setSlot i { state := .identifying }))

def slotRetry (vs : List Nat) (r : Request) (s : State) : State :=
  match vs with
  | [n] =>
    if s.mgmt.mode = .standby then r.reply .wrongMode [] s
    else match asFin 16 n with
      | none => r.reply .badArgument [] s
      | some i => if (s.slot i).state.retriable then r.reply .done [] (retrySlot i s) else r.reply .badState [] s
  | _ => s

def execSlotRetry (s : State) : Host.Outcome State Fault Refusal := live (serving 20 (withArgs [1] slotRetry)) s

/-! ## SLOT RECHALLENGE (R115) -/

def slotRechallenge (vs : List Nat) (r : Request) (s : State) : State :=
  match vs with
  | [n] =>
    if s.mgmt.mode = .standby then r.reply .wrongMode [] s
    else match asFin 16 n with
      | none => r.reply .badArgument [] s
      | some i =>
        if (s.slot i).state.inService then r.reply .accepted [] (startRechallenge i .other s).1 else r.reply .badState [] s
  | _ => s

def execSlotRechallenge (s : State) : Host.Outcome State Fault Refusal := live (serving 21 (withArgs [1] slotRechallenge)) s

/-! ## TEST WRITE ARM (R125) -/

/-- A slot number, or NONE (FFh). -/
def asSlotOrNone (n : Nat) : Option (Option SlotNo) := if n = 255 then some none else (asFin 16 n).map some

def testWriteArm (vs : List Nat) (r : Request) (s : State) : State :=
  match vs with
  | [n] =>
    if s.mgmt.mode ≠ .setup then r.reply .wrongMode [] s
    else match asSlotOrNone n with
      | some arm => r.reply .done (encOpt encSlot s.testArm) { s with testArm := arm }
      | none => r.reply .badArgument [] s
  | _ => s

def execTestWriteArm (s : State) : Host.Outcome State Fault Refusal := quiet (serving 22 (withArgs [1] testWriteArm)) s

end Sys2Proof.Machine
end

