-- ==== Sys2Proof/Machine/StoreRequests.lean ====
section
/-!
DEFINITION. Requests on the history, the audit and the schedule: HISTORY READ, HISTORY ERASE, AUDIT START, AUDIT CONTINUE, AUDIT
STOP, AUDIT READ, SCHEDULE RUN, SCHEDULE HALT, SCHEDULE WRITE, SCHEDULE READ (R135, R136, R141, R147, R148, R154, R157-R159, R165).
-/

namespace Sys2Proof.Machine

/-! ## History (R135, R136) -/

/-- R129's order. -/
def encHistoryEntry (e : HistoryEntry) : List Byte :=
  be 6 e.serial ++ be 1 e.ink ++ be 4 e.capacity ++ be 4 e.committed ++ be 4 e.sequence ++ be 4 e.known ++ be 1 e.state.no ++
    be 1 e.evidence.mask ++ be 6 e.lastSeen

/-- R135: one place of HISTORY READ. The entry's fields follow the free flag with no presence byte of their own: the model's reading
of R70 (log 12). -/
def encPlace (h : History) (n : HistNo) : List Byte :=
  be 1 n.val ++ encFlag (h.entry n).isNone ++
    encFlag (h.pending.contains n || h.writing.any (fun w => w.index == n)) ++
    match h.entry n with
    | some e => encHistoryEntry e
    | none => []

/-- The members `first` to `first + count - 1` of a table of `n`. -/
def window (n first count : Nat) : List (Fin n) := ((List.finRange n).drop first).take count

/-- HISTORY READ (R135). How many places are returned depends on the arguments, so that they are encoded as a list, with its count
byte: the model's reading of R70 (log 12). -/
def historyRead (vs : List Nat) (r : Request) (s : State) : State :=
  match vs with
  | [first, count] =>
    if first ≤ 63 ∧ 1 ≤ count ∧ count ≤ 16 then
      if s.history.scanning then r.reply .notReady [] s
      else
        let h := s.history
        r.reply .done (be 1 ((List.finRange 64).countP (fun n => (h.entry n).isSome)) ++ be 1 h.pending.length ++
          encList (encPlace h) (window 64 first count)) s
    else r.reply .badArgument [] s
  | _ => s

def execHistoryRead (s : State) : Host.Outcome State Fault Refusal := quiet (serving 23 (withArgs [1, 1] historyRead)) s

/-- R136: the places that an erase frees. -/
def erasable (s : State) (n : HistNo) : Bool :=
  match s.history.entry n with
  | some e => e.state != .inUse && !heldBeside s e.serial none
  | none => false

/-- R136. The places freed join the pending writes in ascending index order, which decides which of them a power loss still finds
unwritten: the model's choice, because R136 gives no order among them (log 9). -/
def eraseHistory (s : State) : State :=
  ((List.finRange 64).filter (erasable s)).foldl (fun t n => { t with history := t.history.put n none }) s

def historyErase (_vs : List Nat) (r : Request) (s : State) : State :=
  if s.mgmt.mode ≠ .setup then r.reply .wrongMode [] s
  else if s.history.scanning then r.reply .notReady [] s
  else r.reply .done (be 1 ((List.finRange 64).countP (erasable s))) (eraseHistory s)

def execHistoryErase (s : State) : Host.Outcome State Fault Refusal := live (serving 24 (withArgs [] historyErase)) s

/-! ## Audit (R141, R147, R148, R154) -/

def auditStart (vs : List Nat) (r : Request) (s : State) : State :=
  match vs with
  | [i, m, acc] =>
    if s.mgmt.mode = .standby then r.reply .wrongMode [] s
    else match asFin 16 i, asAuditMode m, asFlag acc with
      | some i, some m, some acc =>
        if s.audit.state.active then r.reply .busy [] s
        else if (s.slot i).state.auditEligible then r.reply .accepted [] (startAudit i m acc s)
        else r.reply .badState [] s
      | _, _, _ => r.reply .badArgument [] s
  | _ => s

def execAuditStart (s : State) : Host.Outcome State Fault Refusal := live (serving 25 (withArgs [1, 1, 1] auditStart)) s

/-- R147. -/
def resumeAudit (s : State) : State :=
  auditContinue (s.setAudit { s.audit with failing := [], firstFailure := none, state := .running })

def auditContinueRequest (_vs : List Nat) (r : Request) (s : State) : State :=
  if s.audit.state = .paused then r.reply .done [] (resumeAudit s) else r.reply .badState [] s

def execAuditContinue (s : State) : Host.Outcome State Fault Refusal := live (serving 26 (withArgs [] auditContinueRequest)) s

def auditStop (_vs : List Nat) (r : Request) (s : State) : State :=
  match s.audit.state with
  | .running => r.reply .accepted [] (s.setAudit { s.audit with state := .stopping })
  | .stopping => r.reply .accepted [] s
  | .paused => r.reply .done [] (auditEnd none s)
  | .idle | .done | .aborted _ => r.reply .badState [] s

def execAuditStop (s : State) : Host.Outcome State Fault Refusal := live (serving 27 (withArgs [] auditStop)) s

def AuditState.abortReason : AuditState → Option AbortReason
  | .aborted r => some r
  | .idle | .running | .paused | .stopping | .done => none

def encFirstFailure (f : FirstFailure) : List Byte := be 1 f.index.val ++ be 1 f.kind.no ++ be 2 f.pass ++ be 6 f.time

def encAudit (a : Audit) : List Byte :=
  be 1 a.state.no ++ encOpt encSlot a.slot ++ be 1 a.mode.no ++ encFlag a.accumulate ++ be 2 a.passes ++
    encOpt (fun p : AuditPass => be 1 p.position.no) a.pass ++ encOpt encIndex (a.pass.bind (·.awaited)) ++
    be 1 ((a.pass.map (·.view.length)).getD 0) ++ encList encIndex a.failing ++ encOpt encFirstFailure a.firstFailure ++
    encOpt (fun r : AbortReason => be 1 r.no) a.state.abortReason

def auditRead (_vs : List Nat) (r : Request) (s : State) : State := r.reply .done (encAudit s.audit) s

def execAuditRead (s : State) : Host.Outcome State Fault Refusal := quiet (serving 28 (withArgs [] auditRead)) s

/-! ## Schedule (R157-R159, R165) -/

def setAction (a : PendingAction) (s : State) : State := { s with schedule := { s.schedule with action := a } }

def scheduleRun (_vs : List Nat) (r : Request) (s : State) : State :=
  if s.mgmt.mode = .standby then r.reply .wrongMode [] s else r.reply .accepted [] (setAction .run s)

def execScheduleRun (s : State) : Host.Outcome State Fault Refusal := quiet (serving 29 (withArgs [] scheduleRun)) s

def scheduleHalt (_vs : List Nat) (r : Request) (s : State) : State :=
  if s.schedule.running then r.reply .accepted [] (setAction .halt s) else r.reply .done [] (setAction .none s)

def execScheduleHalt (s : State) : Host.Outcome State Fault Refusal := quiet (serving 30 (withArgs [] scheduleHalt)) s

/-- R159: the entry as written. -/
def writtenEntry (g : Schedule) (en : Bool) (i : SlotNo) (k : WorkKind) (period offset : Nat) : SchedEntry :=
  { enabled := en, slot := i, kind := k, period, offset, nextDue := if g.running then tick48 (g.tick + offset) else 0, missed := 0 }

def scheduleWrite (vs : List Nat) (r : Request) (s : State) : State :=
  match vs with
  | [n, en, i, k, period, offset] =>
    match asFin 64 n, asFlag en, asFin 16 i, asWorkKind k with
    | some n, some en, some i, some k =>
      if 1 ≤ period then r.reply .done [] (setEntry n (writtenEntry s.schedule en i k period offset) s)
      else r.reply .badArgument [] s
    | _, _, _, _ => r.reply .badArgument [] s
  | _ => s

def execScheduleWrite (s : State) : Host.Outcome State Fault Refusal :=
  quiet (serving 31 (withArgs [1, 1, 1, 1, 2, 2] scheduleWrite)) s

/-- R155's order, after the index. -/
def encSchedEntry (g : Schedule) (n : SchedNo) : List Byte :=
  let e := nth g.entries n
  be 1 n.val ++ encFlag e.enabled ++ encSlot e.slot ++ be 1 e.kind.no ++ be 2 e.period ++ be 2 e.offset ++ be 6 e.nextDue ++ be 1 e.missed

def scheduleRead (vs : List Nat) (r : Request) (s : State) : State :=
  match vs with
  | [first, count] =>
    if first ≤ 63 ∧ 1 ≤ count ∧ count ≤ 64 then
      let g := s.schedule
      r.reply .done (encFlag g.running ++ be 1 g.action.no ++ be 6 g.tick ++ encList (encSchedEntry g) (window 64 first count)) s
    else r.reply .badArgument [] s
  | _ => s

def execScheduleRead (s : State) : Host.Outcome State Fault Refusal := quiet (serving 32 (withArgs [1, 1] scheduleRead)) s

end Sys2Proof.Machine
end

