-- ==== Sys2Proof/Machine/PartRequests.lean ====
section
/-!
DEFINITION. Requests on the part as a whole, and those it does not know: UNKNOWN REQUEST, MODE SET, STATUS READ, TIME SET, PART
RESET (R187-R190, R192, R194-R196).
-/

namespace Sys2Proof.Machine

/-- R70, R192: the kind codes of the part's requests. -/
def knownKind (k : BitVec 16) : Bool := 1 ≤ k.toNat && k.toNat ≤ 44

/-- R192: a head request of a kind that is not one of the part's. -/
def unknownRequest (s : State) : State :=
  match s.mgmt.queue with
  | [] => s
  | r :: rest => if knownKind r.kind = false ∧ canServe s then r.reply .unknown [] (takeRequest rest s) else s

def execUnknownRequest (s : State) : Host.Outcome State Fault Refusal := quiet unknownRequest s

/-! ## MODE SET (R187-R190) -/

/-- R187: AT_BOUNDARY or NOW (true). -/
def asTiming : Nat → Option Bool
  | 0 => some false
  | 1 => some true
  | _ => none

def clearHeldMode (s : State) : State := { s with mgmt := { s.mgmt with heldMode := none } }

/-- R188-R190: an accepted change to a mode that is not the current one, any held change cleared. -/
def changeMode (m : Mode) (now : Bool) (s : State) : State :=
  if m = .standby then enterStandby s
  else if s.mgmt.mode = .standby then wake m s
  else if s.swathOpen = false then applyMode m s
  else if now then applyMode m (closeSwath .aborted s)
  else { s with mgmt := { s.mgmt with heldMode := some m } }

def modeSet (vs : List Nat) (r : Request) (s : State) : State :=
  match vs with
  | [t, n] =>
    match asMode t, asTiming n with
    | some m, some now =>
      if m = s.mgmt.mode then r.reply .done [] (clearHeldMode s)
      else if m = .run ∧ ready s = false then r.reply .notReady [] s
      else if s.mgmt.mode = .setup ∧ keyWriteBusy s then r.reply .busy [] s
      else r.reply .accepted [] (changeMode m now (clearHeldMode s))
    | _, _ => r.reply .badArgument [] s
  | _ => s

def execModeSet (s : State) : Host.Outcome State Fault Refusal := live (serving 41 (withArgs [1, 1] modeSet)) s

/-! ## STATUS READ, TIME SET, PART RESET (R194-R196) -/

/-- R194's results, in its order, with the read's own reservation counted. -/
def encStatus (s : State) : List Byte :=
  be 1 s.mgmt.mode.no ++ encOpt (fun m : Mode => be 1 m.no) s.mgmt.heldMode ++ be 1 s.link.state.no ++ be 1 (flagNo s.swathOpen) ++
    be 4 Config.partIdentity.toNat ++ be 1 s.link.bridge ++ be 1 (flagNo (!s.history.scanning)) ++ be 2 s.events.queue.length ++
    encFlag s.events.overrun ++ be 1 s.audit.state.no ++ be 1 (flagNo s.schedule.running) ++ be 1 s.schedule.action.no ++
    be 6 s.mgmt.partTime ++ be 1 s.mgmt.queue.length ++ be 1 (available s)

def statusRead (_vs : List Nat) (r : Request) (s : State) : State := r.reply .done (encStatus s) s

def execStatusRead (s : State) : Host.Outcome State Fault Refusal := quiet (serving 42 (withArgs [] statusRead)) s

def timeSet (vs : List Nat) (r : Request) (s : State) : State :=
  match vs with
  | [t] => r.reply .done (be 6 s.mgmt.partTime) { s with mgmt := { s.mgmt with partTime := t } }
  | _ => s

def execTimeSet (s : State) : Host.Outcome State Fault Refusal := quiet (serving 43 (withArgs [6] timeSet)) s

/-- R196: the reset itself comes at the end of the response's transmission (`transmissionEnd`). -/
def partReset (_vs : List Nat) (r : Request) (s : State) : State :=
  r.reply .done [] { s with mgmt := { s.mgmt with resetPending := true } }

def execPartReset (s : State) : Host.Outcome State Fault Refusal := quiet (serving 44 (withArgs [] partReset)) s

end Sys2Proof.Machine
end

