-- ==== Sys2Proof/Machine/Power.lean ====
section
/-!
DEFINITION. Power, the reset line and the millisecond clock: POWER_ON, RESET_LINE, POWER_LOSS, PART_TIME_INCREMENT.
-/

namespace Sys2Proof.Machine

/-- POWER_ON (R2, R21, R24, R40, R56, R74, R90, R95, R107, R129, R134, R139, R155, R156, R168, R169, R175, R177, R185): a cell
write that was in progress is gone (log 10). It acts on an unpowered part as well. -/
def execPowerOn (pins : Pins) (s : State) : Host.Outcome State Fault Refusal := .next (resetPart pins s)

/-- RESET_LINE: cell writes in progress are completed first (R107, R133). -/
def execResetLine (pins : Pins) (s : State) : Host.Outcome State Fault Refusal :=
  .next (if s.powered then resetPart pins (completeWrites s) else s)

/-- POWER_LOSS (R107, R133): a write in progress leaves the place as it was or, where the operand says so, as the write makes
it. Everything volatile is gone (log 10). -/
def execPowerLoss (historyDone keyDone : Bool) (s : State) : Host.Outcome State Fault Refusal :=
  if s.powered then
    let d := completeWrites s
    .next { State.reset with
      pending := s.pending
      powered := false
      link := { State.reset.link with bridge := s.link.bridge, headOut := s.link.headOut, laneOut := s.link.laneOut }
      keys := { cells := if keyDone then d.keys.cells else s.keys.cells }
      nonceNext := s.nonceNext
      busOut := s.busOut
      history := { cells := if historyDone then d.history.cells else s.history.cells }
      freeCount := s.freeCount }
  else .next s

/-- A running millisecond timer counts down to 0. -/
def countDown (t : Option Nat) : Option Nat := t.map (fun n => n - 1)

/-- One millisecond of a transaction's try or pause (R82). -/
def Flight.tick (fl : Flight) : Flight :=
  match fl.phase with
  | .awaiting n => { fl with phase := .awaiting (n - 1) }
  | .pausing n => { fl with phase := .pausing (n - 1) }

/-- One millisecond of an indicator: its delay timer (R180) and, while ACTIVE with drive BLINK, its blink phase (R181). -/
def Indicator.tick (d : Indicator) : Indicator :=
  let d1 := { d with timer := countDown d.timer }
  match d.fields.drive with
  | .solid => d1
  | .blink _ => if d.active then { d1 with blinkMs := d.blinkMs + 1 } else d1

/-- One millisecond of the part's running clock, for everything that counts on it (R185). -/
def tickAll (s : State) : State :=
  { s with
    mgmt := { s.mgmt with partTime := (s.mgmt.partTime + 1) % 2 ^ 48 }
    tracker := { s.tracker with current := s.tracker.current.map (fun w => { w with elapsed := sat32 (w.elapsed + 1) }) }
    schedule := { s.schedule with sinceTick := s.schedule.sinceTick + 1 }
    presence := tab fun i => { nth s.presence i with timer := countDown (nth s.presence i).timer }
    lines := tab fun l => { nth s.lines l with flight := (nth s.lines l).flight.map Flight.tick }
    indicators := tab fun i => (nth s.indicators i).tick }

/-- PART_TIME_INCREMENT (R185, R39, R156, R180, R181). -/
def execPartTimeIncrement (s : State) : Host.Outcome State Fault Refusal := quiet tickAll s

end Sys2Proof.Machine
end

