-- ==== Sys2Proof/Machine/Upstream.lean ====
section
/-!
DEFINITION. What arrives on the head port and what leaves the return lane: HEAD_STATUS, RETURN_CHECK_FAILURE,
HEAD_PORT_FRAMING_LOSS, TRANSMISSION_END (R64, R65, R67, R196).
-/

namespace Sys2Proof.Machine

/-- R64: the subject of RETURN_DISCARD. -/
def sourceSubject (addr : Nat) : Subject :=
  match asFin 32 addr with
  | some h => .head h
  | none => .none

/-- R64: a good upstream frame is buffered, or discarded when the buffer holds 4. -/
def headStatus (f : LinkFrame) (s : State) : State :=
  if s.link.headBuf.length < 4 then { s with link := { s.link with headBuf := s.link.headBuf ++ [f] } }
  else raise .returnDiscard (sourceSubject (addressOf f.hdr)) (addressOf f.hdr * 256 + f.kind.toNat) s

def execHeadStatus (f : LinkFrame) (s : State) : Host.Outcome State Fault Refusal := quiet (headStatus f) s

/-- RETURN_CHECK_FAILURE (R64): direction RETURN, count 0 (R167). -/
def execReturnCheckFailure (kind : Byte) (s : State) : Host.Outcome State Fault Refusal :=
  quiet (raise .linkCheckError .none (65536 + kind.toNat)) s

/-- HEAD_PORT_FRAMING_LOSS (R64): the frame cut short is discarded with no event. -/
def execHeadPortFramingLoss (s : State) : Host.Outcome State Fault Refusal := quiet id s

/-- R196: the frame is the response to the PART RESET that was served. -/
def LaneFrame.isReset : LaneFrame → Bool
  | .own (.response r) => r.kind = 44#16 ∧ r.status = .done
  | .own (.notice _) | .head _ => false

/-- R67: the frame has been sent whole and the lane is IDLE. -/
def endTransmission (f : LaneFrame) (s : State) : State :=
  { s with link := { s.link with lane := none, laneOut := s.link.laneOut ++ [f.frame s.link.bridge] } }

/-- TRANSMISSION_END: the lane goes on with the next frame (`settle`), or the reset of a PART RESET takes effect (R196) with the
straps and contacts as they then stand. -/
def transmissionEnd (pins : Pins) (s : State) : State :=
  match s.link.lane with
  | none => s
  | some f =>
    let t := endTransmission f s
    if s.mgmt.resetPending ∧ f.isReset then resetPart pins (completeWrites t) else t

def execTransmissionEnd (pins : Pins) (s : State) : Host.Outcome State Fault Refusal := live (transmissionEnd pins) s

end Sys2Proof.Machine
end

