-- ==== Sys2Proof/Machine/Dispatch.lean ====
section
/-!
DEFINITION. One arm per command: each is one direct call of its meaning.
-/

namespace Sys2Proof.Machine

def exec (i : Instr) (s : State) : Host.Outcome State Fault Refusal :=
  match i with
  | .powerOn pins => Sys2Proof.Machine.execPowerOn pins s
  | .resetLine pins => Sys2Proof.Machine.execResetLine pins s
  | .firing f => Sys2Proof.Machine.execFiring f s
  | .swathOpen hdr id => Sys2Proof.Machine.execSwathOpen hdr id s
  | .swathClose hdr id => Sys2Proof.Machine.execSwathClose hdr id s
  | .swathExpiry => Sys2Proof.Machine.execSwathExpiry s
  | .headControl f => Sys2Proof.Machine.execHeadControl f s
  | .management tag kind args => Sys2Proof.Machine.execManagement tag kind args s
  | .checkFailure kind => Sys2Proof.Machine.execCheckFailure kind s
  | .lossOfFraming => Sys2Proof.Machine.execLossOfFraming s
  | .headStatus f => Sys2Proof.Machine.execHeadStatus f s
  | .returnCheckFailure kind => Sys2Proof.Machine.execReturnCheckFailure kind s
  | .headPortFramingLoss => Sys2Proof.Machine.execHeadPortFramingLoss s
  | .transmissionEnd pins => Sys2Proof.Machine.execTransmissionEnd pins s
  | .indicatorTimerExpiry n => Sys2Proof.Machine.execIndicatorTimerExpiry n s
  | .contactClose n => Sys2Proof.Machine.execContactClose n s
  | .contactOpen n => Sys2Proof.Machine.execContactOpen n s
  | .settlingEnd n => Sys2Proof.Machine.execSettlingEnd n s
  | .retirementHandover n => Sys2Proof.Machine.execRetirementHandover n s
  | .transactionStart l => Sys2Proof.Machine.execTransactionStart l s
  | .answerFrame l a => Sys2Proof.Machine.execAnswerFrame l a s
  | .answerTimeout l => Sys2Proof.Machine.execAnswerTimeout l s
  | .retryPauseEnd l => Sys2Proof.Machine.execRetryPauseEnd l s
  | .lineStop l => Sys2Proof.Machine.execLineStop l s
  | .scanEnd => Sys2Proof.Machine.execScanEnd s
  | .historyWriteEnd => Sys2Proof.Machine.execHistoryWriteEnd s
  | .keyWriteEnd => Sys2Proof.Machine.execKeyWriteEnd s
  | .scheduleTick => Sys2Proof.Machine.execScheduleTick s
  | .unknownRequest => Sys2Proof.Machine.execUnknownRequest s
  | .channelWrite => Sys2Proof.Machine.execChannelWrite s
  | .channelLimitsWrite => Sys2Proof.Machine.execChannelLimitsWrite s
  | .channelRead => Sys2Proof.Machine.execChannelRead s
  | .headMapWrite => Sys2Proof.Machine.execHeadMapWrite s
  | .headMapRead => Sys2Proof.Machine.execHeadMapRead s
  | .volumeWrite => Sys2Proof.Machine.execVolumeWrite s
  | .volumeRead => Sys2Proof.Machine.execVolumeRead s
  | .channelCountersClear => Sys2Proof.Machine.execChannelCountersClear s
  | .channelDebit => Sys2Proof.Machine.execChannelDebit s
  | .swathLimitWrite => Sys2Proof.Machine.execSwathLimitWrite s
  | .swathRead => Sys2Proof.Machine.execSwathRead s
  | .lineRead => Sys2Proof.Machine.execLineRead s
  | .keyLoad => Sys2Proof.Machine.execKeyLoad s
  | .keyRevoke => Sys2Proof.Machine.execKeyRevoke s
  | .keyStatus => Sys2Proof.Machine.execKeyStatus s
  | .denyAdd => Sys2Proof.Machine.execDenyAdd s
  | .denyRemove => Sys2Proof.Machine.execDenyRemove s
  | .denyRead => Sys2Proof.Machine.execDenyRead s
  | .slotRead => Sys2Proof.Machine.execSlotRead s
  | .slotRetry => Sys2Proof.Machine.execSlotRetry s
  | .slotRechallenge => Sys2Proof.Machine.execSlotRechallenge s
  | .testWriteArm => Sys2Proof.Machine.execTestWriteArm s
  | .historyRead => Sys2Proof.Machine.execHistoryRead s
  | .historyErase => Sys2Proof.Machine.execHistoryErase s
  | .auditStart => Sys2Proof.Machine.execAuditStart s
  | .auditContinue => Sys2Proof.Machine.execAuditContinue s
  | .auditStop => Sys2Proof.Machine.execAuditStop s
  | .auditRead => Sys2Proof.Machine.execAuditRead s
  | .scheduleRun => Sys2Proof.Machine.execScheduleRun s
  | .scheduleHalt => Sys2Proof.Machine.execScheduleHalt s
  | .scheduleWrite => Sys2Proof.Machine.execScheduleWrite s
  | .scheduleRead => Sys2Proof.Machine.execScheduleRead s
  | .eventRead => Sys2Proof.Machine.execEventRead s
  | .eventInsert => Sys2Proof.Machine.execEventInsert s
  | .routeWrite => Sys2Proof.Machine.execRouteWrite s
  | .routeRead => Sys2Proof.Machine.execRouteRead s
  | .conditionRead => Sys2Proof.Machine.execConditionRead s
  | .indicatorWrite => Sys2Proof.Machine.execIndicatorWrite s
  | .indicatorRelease => Sys2Proof.Machine.execIndicatorRelease s
  | .indicatorRead => Sys2Proof.Machine.execIndicatorRead s
  | .modeSet => Sys2Proof.Machine.execModeSet s
  | .statusRead => Sys2Proof.Machine.execStatusRead s
  | .timeSet => Sys2Proof.Machine.execTimeSet s
  | .partReset => Sys2Proof.Machine.execPartReset s
  | .powerLoss historyDone keyDone => Sys2Proof.Machine.execPowerLoss historyDone keyDone s
  | .partTimeIncrement => Sys2Proof.Machine.execPartTimeIncrement s
  | .blinkPhase n => Sys2Proof.Machine.execBlinkPhase n s

end Sys2Proof.Machine
end

