-- ==== Sys2Proof/Safety.lean ====
section
/-!
DEFINITION. What claims are stated in: the answer of a command, a served request, the frames of the part's own, the events raised,
what closes, selection runs and debits are, and the laws that every step keeps.
-/

namespace Sys2Proof.Machine

/-- The command goes on from `s` to `t`. -/
def Answers (c : Instr) (s t : State) : Prop := exec c s = .next t

/-- R192: the request stands at the head of the queue, `rest` behind it, and can be served. -/
abbrev Serves (s : State) (r : Request) (rest : List Request) : Prop :=
  s.powered = true ∧ s.mgmt.queue = r :: rest ∧ canServe s = true

/-- The requests that can change a slot record, channel record, counter or history place. -/
def settles : Instr → Bool
  | .channelWrite | .channelLimitsWrite | .channelCountersClear | .channelDebit | .keyRevoke | .denyAdd | .slotRetry
  | .slotRechallenge | .historyErase | .auditStart | .auditContinue | .auditStop | .modeSet => true
  | _ => false

/-- The request kind that a serving command serves (R70). -/
def requestCode : Instr → Option Nat
  | .channelWrite => some 1
  | .channelLimitsWrite => some 2
  | .channelRead => some 3
  | .headMapWrite => some 4
  | .headMapRead => some 5
  | .volumeWrite => some 6
  | .volumeRead => some 7
  | .channelCountersClear => some 8
  | .channelDebit => some 9
  | .swathLimitWrite => some 10
  | .swathRead => some 11
  | .lineRead => some 12
  | .keyLoad => some 13
  | .keyRevoke => some 14
  | .keyStatus => some 15
  | .denyAdd => some 16
  | .denyRemove => some 17
  | .denyRead => some 18
  | .slotRead => some 19
  | .slotRetry => some 20
  | .slotRechallenge => some 21
  | .testWriteArm => some 22
  | .historyRead => some 23
  | .historyErase => some 24
  | .auditStart => some 25
  | .auditContinue => some 26
  | .auditStop => some 27
  | .auditRead => some 28
  | .scheduleRun => some 29
  | .scheduleHalt => some 30
  | .scheduleWrite => some 31
  | .scheduleRead => some 32
  | .eventRead => some 33
  | .eventInsert => some 34
  | .routeWrite => some 35
  | .routeRead => some 36
  | .conditionRead => some 37
  | .indicatorWrite => some 38
  | .indicatorRelease => some 39
  | .indicatorRead => some 40
  | .modeSet => some 41
  | .statusRead => some 42
  | .timeSet => some 43
  | .partReset => some 44
  | _ => none

/-- What the blocks do of their own after a request's command: every block where a record can have changed, otherwise the return
lane alone (R67). -/
def finish (c : Instr) (s : State) : State := if settles c then settle s else kickLane s

/-- `t` with the head request gone from the queue and its response at the tail of the outgoing list. -/
def answered (tag : Byte) (k : BitVec 16) (rest : List Request) (st : Status) (results : List Byte) (t : State) : State :=
  placeResponse { tag, kind := k, status := st, results } { t with mgmt := { t.mgmt with queue := rest } }

/-- Whenever a request of kind `k` with these arguments can be served in `s`, the command turns `s` into `t`, answers with the
status and results, and does nothing else. -/
def Carries (c : Instr) (k : BitVec 16) (args : List Byte) (st : Status) (results : List Byte) (s t : State) : Prop :=
  ∀ tag rest, Serves s { tag, kind := k, args } rest → exec c s = .next (finish c (answered tag k rest st results t))

/-- The part's own frames not yet sent whole, oldest first: the one being sent, then the outgoing list. -/
def ownFrames (s : State) : List OutFrame :=
  (match s.link.lane with
    | some (.own o) => [o]
    | some (.head _) | none => []) ++ s.link.outgoing

/-- The response that the part placed last. -/
def lastAnswer (s : State) (tag : Byte) (k : BitVec 16) (st : Status) (results : List Byte) : Prop :=
  (ownFrames s).getLast? = some (.response { tag, kind := k, status := st, results })

/-- The head request was served: it has left the queue, its place is promised, and it has no answer yet (R192, R108, R109). -/
def Promised (s t : State) (rest : List Request) : Prop :=
  t.mgmt.queue = rest ∧ t.mgmt.promised = s.mgmt.promised + 1 ∧ ownFrames t = ownFrames s

/-- An event before it has a time stamp: kind, subject, detail (R166). -/
abbrev Raised := EventKind × Subject × Nat

/-- The event queue after these events, in this order, each taken by its kind's route (R168, R169). -/
def queueAfter (s : State) (l : List Raised) : List Event :=
  l.foldl (fun q e =>
    if (nth s.events.routes e.1.idx).queue then
      (({ s.events with queue := q } : EventUnit).enqueue
        { time := s.mgmt.partTime, kind := e.1, subject := e.2.1, detail := e.2.2 }).queue
    else q) s.events.queue

/-- The event queue after one event of a kind. -/
def queueWith (s : State) (k : EventKind) (subj : Subject) (d : Nat) : List Event := queueAfter s [(k, subj, d)]

/-- From `s` to `t` exactly these events are raised, in this order. -/
def Raises (s t : State) (l : List Raised) : Prop := t.events.queue = queueAfter s l

/-- These events are raised, in this order, and others only of the kinds given: `l` first. -/
def RaisesThen (s t : State) (l : List Raised) (kinds : List EventKind) : Prop :=
  ∃ more, (∀ e ∈ more, e.1 ∈ kinds) ∧ Raises s t (l ++ more)

/-- These events are raised, in this order, and others only of the kinds given, before or after them. -/
def RaisesAmong (s t : State) (l : List Raised) (kinds : List EventKind) : Prop :=
  ∃ before after, (∀ e ∈ before ++ after, e.1 ∈ kinds) ∧ Raises s t (before ++ l ++ after)

/-- The state that the events of a command join: a good downstream frame sets the failure count to 0 and regains a lost link before
anything else (R58, R60). -/
def arrived (c : Instr) (s : State) : State :=
  match c with
  | .firing _ | .swathOpen _ _ | .swathClose _ _ | .headControl _ | .management _ _ _ => goodFrame s
  | _ => s

/-- What CHANNEL WRITE sets (R1, setup class). -/
def Channel.setup (ch : Channel) : Nat × List SlotNo × Policy := (ch.ink, ch.feed, ch.policy)

/-- What a selection run decides (R5): active slot, state, gate. -/
def Channel.supply (ch : Channel) : Option SlotNo × ChannelState × Gate := (ch.active, ch.state, ch.gate)

/-- The parts of the state, for frames: every field of `State` is among them, some of them part by part. -/
inductive Part where
  | pending | powered | freeCount | linkState | reception | bridge | headBuffer | responses | outgoing | lane | headOut
  | laneOut | openSwath | swathRing | swathLimit | headMap | unmappedFlags | volumeTable | counters | debitFlags
  | channelSetup | channelLimits | supply | selectionHeld | switched | presence | slotState | identity | lastAuth
  | consumed | committed | evidence | lowFlag | auditFail | owedCommit | handover | testArm | keyCells | keyImage
  | keyWrites | denyList | nonce | lines | busOut | historyCells | historyImage | historyWrites | historyScan | audit
  | scheduleTable | scheduleState | scheduleTick | eventQueue | routes | liveValues | latches | indicators | mode
  | heldMode | requests | promised | resetPending | partTime
  deriving DecidableEq, Repr

/-- The part is the same in both states. -/
def Part.same (p : Part) (s t : State) : Prop :=
  match p with
  | .pending => t.pending = s.pending
  | .powered => t.powered = s.powered
  | .freeCount => t.freeCount = s.freeCount
  | .linkState => t.link.state = s.link.state ∧ t.link.failures = s.link.failures
  | .reception => t.link.reception = s.link.reception
  | .bridge => t.link.bridge = s.link.bridge
  | .headBuffer => t.link.headBuf = s.link.headBuf
  | .responses => t.link.responses = s.link.responses
  | .outgoing => t.link.outgoing = s.link.outgoing
  | .lane => t.link.lane = s.link.lane ∧ t.link.lastServed = s.link.lastServed
  | .headOut => t.link.headOut = s.link.headOut
  | .laneOut => t.link.laneOut = s.link.laneOut
  | .openSwath => t.tracker.current = s.tracker.current
  | .swathRing => t.tracker.ring = s.tracker.ring ∧ t.tracker.closes = s.tracker.closes
  | .swathLimit => t.tracker.limit = s.tracker.limit ∧ t.tracker.heldLimit = s.tracker.heldLimit
  | .headMap => t.meter.headMap = s.meter.headMap
  | .unmappedFlags => t.meter.unmappedReported = s.meter.unmappedReported
  | .volumeTable => t.meter.active = s.meter.active ∧ t.meter.staged = s.meter.staged ∧
      t.meter.stagedPending = s.meter.stagedPending
  | .counters => t.meter.counters = s.meter.counters
  | .debitFlags => t.meter.overdrawReported = s.meter.overdrawReported ∧
      t.meter.unattributedReported = s.meter.unattributedReported
  | .channelSetup => ∀ c, (t.chan c).setup = (s.chan c).setup
  | .channelLimits => ∀ c, (t.chan c).limits = (s.chan c).limits ∧ (t.chan c).held = (s.chan c).held
  | .supply => ∀ c, (t.chan c).supply = (s.chan c).supply
  | .selectionHeld => ∀ c, (t.chan c).selectionHeld = (s.chan c).selectionHeld
  | .switched => ∀ c, (t.chan c).switched = (s.chan c).switched
  | .presence => t.presence = s.presence
  | .slotState => ∀ i, (t.slot i).state = (s.slot i).state
  | .identity => ∀ i, (t.slot i).identity = (s.slot i).identity
  | .lastAuth => ∀ i, (t.slot i).lastAuth = (s.slot i).lastAuth
  | .consumed => ∀ i, (t.slot i).consumed = (s.slot i).consumed
  | .committed => ∀ i, (t.slot i).committed = (s.slot i).committed ∧ (t.slot i).sequence = (s.slot i).sequence
  | .evidence => ∀ i, (t.slot i).evidence = (s.slot i).evidence
  | .lowFlag => ∀ i, (t.slot i).low = (s.slot i).low
  | .auditFail => ∀ i, (t.slot i).auditFail = (s.slot i).auditFail
  | .owedCommit => ∀ i, (t.slot i).owedCommit = (s.slot i).owedCommit
  | .handover => t.handover = s.handover
  | .testArm => t.testArm = s.testArm
  | .keyCells => t.keys.cells = s.keys.cells
  | .keyImage => t.keys.image = s.keys.image
  | .keyWrites => t.keys.current = s.keys.current ∧ t.keys.waiting = s.keys.waiting
  | .denyList => t.deny = s.deny
  | .nonce => t.nonceNext = s.nonceNext
  | .lines => t.lines = s.lines
  | .busOut => t.busOut = s.busOut
  | .historyCells => t.history.cells = s.history.cells
  | .historyImage => t.history.image = s.history.image
  | .historyWrites => t.history.pending = s.history.pending ∧ t.history.writing = s.history.writing
  | .historyScan => t.history.scanning = s.history.scanning
  | .audit => t.audit = s.audit
  | .scheduleTable => t.schedule.entries = s.schedule.entries
  | .scheduleState => t.schedule.running = s.schedule.running ∧ t.schedule.action = s.schedule.action
  | .scheduleTick => t.schedule.tick = s.schedule.tick ∧ t.schedule.sinceTick = s.schedule.sinceTick
  | .eventQueue => t.events.queue = s.events.queue ∧ t.events.overrun = s.events.overrun
  | .routes => t.events.routes = s.events.routes
  | .liveValues => t.events.slotLive = s.events.slotLive ∧ t.events.channelLive = s.events.channelLive
  | .latches => t.events.slotLatch = s.events.slotLatch ∧ t.events.channelLatch = s.events.channelLatch
  | .indicators => t.indicators = s.indicators
  | .mode => t.mgmt.mode = s.mgmt.mode
  | .heldMode => t.mgmt.heldMode = s.mgmt.heldMode
  | .requests => t.mgmt.queue = s.mgmt.queue
  | .promised => t.mgmt.promised = s.mgmt.promised
  | .resetPending => t.mgmt.resetPending = s.mgmt.resetPending
  | .partTime => t.mgmt.partTime = s.mgmt.partTime

/-- The frame of a change: every part but those listed is the same. -/
def Keeps (changed : List Part) (s t : State) : Prop := ∀ p, p ∉ changed → p.same s t

/-! What the operations may change, for the frames of claims. -/

/-- Every part of a slot record. -/
def Foot.slot : List Part :=
  [.slotState, .identity, .lastAuth, .consumed, .committed, .evidence, .lowFlag, .auditFail, .owedCommit]

/-- What an event may change: the queue and the notice that asks for a read. -/
def Foot.raise : List Part := [.eventQueue, .outgoing]

/-- What a condition report may change. -/
def Foot.report : List Part := [.liveValues, .latches, .indicators]

/-- What an update of a history place may change. -/
def Foot.history : List Part := [.historyImage, .historyWrites]

/-- What the return lane may change (R67). -/
def Foot.lane : List Part := [.headBuffer, .responses, .outgoing, .lane]

/-- What the blocks may change of their own at the end of a step. -/
def Foot.settle : List Part := Foot.report ++ .historyWrites :: Foot.lane

/-- What answering a request may change. -/
def Foot.answer : List Part := [.responses, .outgoing, .promised]

/-- What serving or withdrawing a slot's commit may change. -/
def Foot.owed : List Part := [.owedCommit, .lines]

/-- What a commit trigger, or the end of an audit that it may cause, may change. -/
def Foot.commit : List Part := .audit :: Foot.owed ++ Foot.raise

/-- What a selection run may change. -/
def Foot.run : List Part := [.supply, .switched, .handover, .selectionHeld] ++ Foot.raise ++ Foot.report

/-- What the report of a slot's change of state may change. -/
def Foot.changed : List Part := Foot.run ++ Foot.commit

/-- What a level check may change before the report. -/
def Foot.level : List Part := [.lowFlag, .slotState] ++ Foot.raise ++ Foot.report

/-- What a level check and its report may change. -/
def Foot.checked : List Part := Foot.level ++ Foot.changed

/-- What new evidence may change before the report. -/
def Foot.evidence : List Part := [.evidence, .slotState] ++ Foot.raise ++ Foot.report ++ Foot.history

/-- What entry to REJECTED may change before the report. -/
def Foot.reject : List Part := .slotState :: Foot.owed ++ Foot.raise

/-- What a debit may change. -/
def Foot.debit : List Part := [.counters, .consumed, .debitFlags] ++ Foot.checked

/-- What a change between SETUP and RUN may change. -/
def Foot.mode : List Part := .mode :: Foot.changed

/-- What the close of a swath may change. -/
def Foot.close : List Part :=
  [.openSwath, .swathRing, .swathLimit, .channelLimits, .unmappedFlags, .debitFlags, .volumeTable, .heldMode, .mode] ++ Foot.checked

/-- What the wake may change. -/
def Foot.wake : List Part := [.presence, .slotState, .mode] ++ Foot.changed

/-- What the audit changes without a finding. -/
def Foot.read : List Part := [.audit, .lines]

/-- What a finding, or the end of a pass, may change. -/
def Foot.finding : List Part := .auditFail :: Foot.evidence ++ Foot.changed

/-- What the outcome of a transaction may change. -/
def Foot.outcome : List Part := .freeCount :: Foot.slot ++ Foot.changed ++ Foot.history

/-- What the arrival of a good frame may change. -/
def Foot.heard : List Part := [.linkState, .reception] ++ Foot.raise

/-- What a counted frame may change. -/
def Foot.counted : List Part := [.headOut, .openSwath] ++ Foot.debit

/-- What a key write or a request for one may change. -/
def Foot.key : List Part := [.keyCells, .keyImage, .keyWrites] ++ Foot.answer

/-- What a tick may change. -/
def Foot.tick : List Part := [.scheduleTable, .scheduleState, .scheduleTick, .slotState] ++ Foot.changed

/-- What a change of mode may change. -/
def Foot.modeSet : List Part := [.scheduleState, .presence] ++ Foot.close

/-- What serving a request may change besides the effect of its own rule. -/
def Foot.request : List Part := .requests :: Foot.answer ++ Foot.settle

/-- Every slot record but that of slot `i` is the same. -/
def OtherSlotsSame (i : SlotNo) (s t : State) : Prop := ∀ j, j ≠ i → t.slot j = s.slot j

/-! ## Channels -/

/-- R3, R8: a channel is FEEDING exactly while it has an active slot, which stands in its feed list; its gate is OPEN only in RUN
and only while it is FEEDING. -/
def Channel.lawful (m : Mode) (ch : Channel) : Prop :=
  (ch.state = .feeding ↔ ch.active.isSome) ∧ (∀ a, ch.active = some a → a ∈ ch.feed) ∧ (ch.gate = .opened → m = .run ∧ ch.state = .feeding)

/-- R3: each slot stands in at most one feed list, and at most once in it. -/
def FeedsDisjoint (s : State) : Prop :=
  (∀ c, (s.chan c).feed.Nodup) ∧ ∀ c d i, i ∈ (s.chan c).feed → i ∈ (s.chan d).feed → c = d

def ChannelsLawful (s : State) : Prop := (∀ c, (s.chan c).lawful s.mgmt.mode) ∧ FeedsDisjoint s

/-! ## Selection runs, level checks and history updates -/

/-- R5, R8, R9: what a selection run makes of the channel record `was`, from the slot states and the mode it finds. -/
def RunDecides (was : Channel) (st : SlotNo → SlotState) (m : Mode) (now : Channel) : Prop :=
  let ok (i : SlotNo) : Bool := (st i).usable was.policy
  (was.ink = 0 → now.supply = (none, .unused, .closed)) ∧
  (was.ink ≠ 0 →
    (∀ a, was.active = some a → a ∈ was.feed → ok a = true → now.active = some a) ∧
    ((∀ a, was.active = some a → a ∉ was.feed ∨ ok a = false) → now.active = was.feed.find? ok) ∧
    now.state = (if now.active = none then .starved else .feeding) ∧
    now.gate = (if m = .run ∧ now.active ≠ none then .opened else .closed) ∧
    now.switched = (was.switched || now.active != was.active))

/-- R5, R167: the events of a run that turns the record `was` of channel `c` into `now`. -/
def runEvents (c : ChannelNo) (was now : Channel) : List Raised :=
  if was.ink = 0 then []
  else match was.active, now.active with
    | some a, some b => if a = b then [] else [(.supplySwitch, .channel c, a.val * 256 + b.val)]
    | none, some b => [(.channelFed, .channel c, b.val)]
    | some a, none => [(.channelStarved, .channel c, a.val)]
    | none, none => if was.state = .unused then [(.channelStarved, .channel c, 255)] else []

/-- R15: a DEPLETED slot that is active nowhere is handed over for retirement, if a channel has left it, and if it has become or
returned to DEPLETED. -/
def HandsOver (s t : State) : Prop :=
  (∀ (c : ChannelNo) (a : SlotNo), (s.chan c).ink ≠ 0 → (s.chan c).active = some a → (t.slot a).state = .depleted →
    (∀ d, (t.chan d).active ≠ some a) → nth t.handover a = true) ∧
  ∀ i : SlotNo, (s.slot i).state ≠ .depleted → (t.slot i).state = .depleted → (∀ d, (t.chan d).active ≠ some i) →
    nth t.handover i = true

/-- R19: a level check of new limits is made of the slot. -/
def Slot.limitsChecked (sl : Slot) : Bool := sl.identity.isSome && sl.state.limitsChecked

/-- R12, R13: the events of a level check against `lim` of a slot that R19 names. -/
def levelEvents (lim : Limits) (i : SlotNo) (sl : Slot) : List Raised :=
  (if sl.remaining ≤ lim.low ∧ sl.low = false then [(.levelLow, .slot i, sl.remaining)] else []) ++
    if sl.remaining ≤ lim.reserve ∧ sl.state ∈ [SlotState.genuine, .suspect, .challenging (.rechallenge .genuine),
      .challenging (.rechallenge .suspect), .challenging (.wake .genuine), .challenging (.wake .suspect)]
    then [(.slotDepleted, .slot i, sl.remaining)] else []

/-- R12, R13, R19: what new limits of its channel make of a slot record: the LOW flag in one direction, and DEPLETED, or the return state
DEPLETED of a challenge. -/
def LimitsMet (lim : Limits) (was now : Slot) : Prop :=
  let returning (st : SlotState) (r : ReturnState) : Prop := st = .challenging (.rechallenge r) ∨ st = .challenging (.wake r)
  let checked : Prop := was.identity ≠ none ∧ (was.state = .genuine ∨ was.state = .suspect ∨ ∃ r, returning was.state r)
  (now.low = true ↔ was.low = true ∨ (checked ∧ was.remaining ≤ lim.low)) ∧
  (checked → was.remaining ≤ lim.reserve →
    (was.state = .genuine ∨ was.state = .suspect → now.state = .depleted) ∧
    (∀ r, was.state = .challenging (.rechallenge r) → now.state = .challenging (.rechallenge .depleted)) ∧
    ∀ r, was.state = .challenging (.wake r) → now.state = .challenging (.wake .depleted)) ∧
  (¬(checked ∧ was.remaining ≤ lim.reserve) → now.state = was.state)

/-- R6, R19: the level checks of new limits of channel `c`, made of the slots given one after the other, turn the channel record `ch` into
`last`: a slot whose state changes makes a selection run at once, from the slot states found so far. `all` are their events. -/
def ChecksRun (c : ChannelNo) (lim : Limits) (s t : State) (last : Channel) :
    List SlotNo → (SlotNo → SlotState) → Channel → List Raised → Prop
  | [], _, ch, all => last = ch ∧ all = []
  | i :: rest, st, ch, all =>
    let found (j : SlotNo) : SlotState := if j = i then (t.slot i).state else st j
    let first : List Raised := if (s.slot i).limitsChecked then levelEvents lim i (s.slot i) else []
    ∃ (next : Channel) (later : List Raised), ChecksRun c lim s t last rest found next later ∧
      ((t.slot i).state = (s.slot i).state → next = ch ∧ all = first ++ later) ∧
      ((t.slot i).state ≠ (s.slot i).state → RunDecides ch found s.mgmt.mode next ∧
        next = { ch with active := next.active, state := next.state, gate := next.gate, switched := next.switched } ∧
        all = first ++ runEvents c ch next ++ later)

/-- R12, R13, R19: the events of the level checks that a close makes of held limits, in ascending channel order and within a channel in
feed-list order (log 9). -/
def heldLevelEvents (s : State) : List Raised :=
  (List.finRange 8).flatMap (fun c =>
    match (s.chan c).held with
    | none => []
    | some lim => ((s.chan c).feed.filter (fun i => (s.slot i).limitsChecked)).flatMap (fun i => levelEvents lim i (s.slot i)))

/-- R130: the history entry that slot `i` holds takes an update, with its last-seen time and a pending write, and no other place changes;
if the slot holds none, no place changes. -/
def HeldEntryTakes (s t : State) (i : SlotNo) (update : HistoryEntry → HistoryEntry) : Prop :=
  let held (n : HistNo) (e : HistoryEntry) : Prop :=
    (s.slot i).lastAuth ≠ none ∧ (s.slot i).serial? = some e.serial ∧ s.history.find e.serial = some n ∧ s.history.entry n = some e
  (∀ n e, held n e →
    t.history.entry n = some { update e with lastSeen := s.mgmt.partTime } ∧
    (n ∈ t.history.pending ∨ ∃ w, t.history.writing = some w ∧ w.index = n) ∧
    ∀ m, m ≠ n → t.history.entry m = s.history.entry m) ∧
  ((∀ n e, ¬held n e) → ∀ m, t.history.entry m = s.history.entry m)

/-- R130: the removal row, for slot `i`: known takes the consumed amount, and the state becomes REMOVED unless it is EXHAUSTED or another
slot holds the entry. -/
def removalUpdate (s : State) (i : SlotNo) (e : HistoryEntry) : HistoryEntry :=
  { e with
    known := max e.known (s.slot i).consumed
    state :=
      if e.state = .exhausted ∨ ∃ j : SlotNo, j ≠ i ∧ (s.slot j).lastAuth ≠ none ∧ (s.slot j).serial? = some e.serial then e.state
      else .removed }

/-! ## What resets, closes and the return lane leave -/

/-- R107: the key cells with a write in progress completed. -/
def keysWritten (s : State) : Tbl 8 KeyEntry :=
  match s.keys.current with
  | some w => upd s.keys.cells w.key w.entry
  | none => s.keys.cells

/-- R133: the history cells with a write in progress completed. -/
def historyWritten (s : State) : Tbl 64 (Option HistoryEntry) :=
  match s.history.writing with
  | some w => upd s.history.cells w.index w.image
  | none => s.history.cells

/-- The part after a reset that ends with the pins as given and the cells as given: the blocks as in `State.reset`, straps and
contacts as sensed, images loaded from the cells, and what no reset touches as it was. -/
def ResetFrom (pins : Pins) (keyCells : Tbl 8 KeyEntry) (historyCells : Tbl 64 (Option HistoryEntry)) (s t : State) : Prop :=
  t.pending = s.pending ∧ t.powered = true ∧
  t.link.state = .up ∧ t.link.failures = 0 ∧ t.link.reception = none ∧ t.link.headBuf = [] ∧ t.link.outgoing = [] ∧
  t.link.lane = none ∧ t.link.lastServed = .outgoing ∧ t.link.bridge = 40 + pins.straps.toNat ∧ t.link.headOut = s.link.headOut ∧
  t.tracker = State.reset.tracker ∧ t.meter = State.reset.meter ∧ t.channels = State.reset.channels ∧
  t.handover = State.reset.handover ∧ t.testArm = none ∧ t.deny = [] ∧ t.lines = State.reset.lines ∧ t.audit = State.reset.audit ∧
  t.schedule = State.reset.schedule ∧ t.events = State.reset.events ∧ t.indicators = State.reset.indicators ∧
  t.mgmt = State.reset.mgmt ∧
  (∀ i : SlotNo, pins.contacts.getLsbD i.val = true →
    nth t.presence i = { closed := true, timer := some 200, wakeMark := false } ∧ t.slot i = { state := .settling }) ∧
  (∀ i : SlotNo, pins.contacts.getLsbD i.val = false →
    nth t.presence i = { closed := false, timer := none, wakeMark := false } ∧ t.slot i = { state := .empty }) ∧
  t.keys = { cells := keyCells, image := keyCells, current := none, waiting := [] } ∧
  t.history = { cells := historyCells, image := historyCells, pending := [], writing := none, scanning := true } ∧
  t.nonceNext = s.nonceNext ∧ t.busOut = s.busOut ∧ t.freeCount = s.freeCount

/-- R67: what an IDLE return lane makes of the two sources; `u` before, `v` after. -/
def LaneTakes (u v : LinkUnit) : Prop :=
  match u.headBuf, u.outgoing, u.lastServed with
  | [], [], _ => v.lane = none ∧ v.headBuf = [] ∧ v.outgoing = [] ∧ v.lastServed = u.lastServed
  | f :: fs, [], _ => v.lane = some (.head f) ∧ v.headBuf = fs ∧ v.outgoing = [] ∧ v.lastServed = .headStatus
  | [], o :: os, _ => v.lane = some (.own o) ∧ v.headBuf = [] ∧ v.outgoing = os ∧ v.lastServed = .outgoing
  | f :: fs, os, .outgoing => v.lane = some (.head f) ∧ v.headBuf = fs ∧ v.outgoing = os ∧ v.lastServed = .headStatus
  | fs, o :: os, .headStatus => v.lane = some (.own o) ∧ v.headBuf = fs ∧ v.outgoing = os ∧ v.lastServed = .outgoing

/-- R188: the mode that a close leaves, by the held change and the part's readiness. -/
def modeAfterClose (s : State) : Mode :=
  match s.mgmt.heldMode with
  | none => s.mgmt.mode
  | some m => if m = .run ∧ (ready s = false ∨ keyWriteBusy s = true) then s.mgmt.mode else m

/-- R19, R48, R51: the record written and every held change applied, when the swath `w` closes with outcome `o`. The level checks of the
held limits are said of states with the channel laws, which every step keeps. -/
def ClosedWith (o : SwathOutcome) (w : OpenSwath) (s t : State) : Prop :=
  t.tracker.ring = (o.recordOf w :: s.tracker.ring).take 16 ∧ t.tracker.closes = (s.tracker.closes + 1) % 2 ^ 32 ∧
  t.tracker.limit = s.tracker.heldLimit.getD s.tracker.limit ∧ t.tracker.heldLimit = none ∧
  t.meter.active = (if s.meter.stagedPending then s.meter.staged else s.meter.active) ∧ t.meter.staged = s.meter.staged ∧
  t.meter.stagedPending = false ∧ (∀ h, nth t.meter.unmappedReported h = false) ∧
  (∀ c, nth t.meter.overdrawReported c = false ∧ nth t.meter.unattributedReported c = false) ∧
  (∀ c, (t.chan c).limits = (s.chan c).held.getD (s.chan c).limits ∧ (t.chan c).held = none ∧ (t.chan c).selectionHeld = false) ∧
  (ChannelsLawful s →
    (∀ c lim i, (s.chan c).held = some lim → i ∈ (s.chan c).feed → LimitsMet lim (s.slot i) (t.slot i)) ∧
    ∀ i, (∀ c, (s.chan c).held ≠ none → i ∉ (s.chan c).feed) →
      (t.slot i).state = (s.slot i).state ∧ (t.slot i).low = (s.slot i).low) ∧
  t.mgmt.heldMode = none ∧ t.mgmt.mode = modeAfterClose s

/-- R48, R167: SWATH_IRREGULAR of a close, unless it is CLOSED. -/
def closeEvents (o : SwathOutcome) (w : OpenSwath) : List Raised :=
  match o with
  | .closed => []
  | .mismatched _ => [(.swathIrregular, .none, 1 * 65536 + w.id)]
  | .cut => [(.swathIrregular, .none, 2 * 65536 + w.id)]
  | .expired => [(.swathIrregular, .none, 3 * 65536 + w.id)]
  | .aborted => [(.swathIrregular, .none, 4 * 65536 + w.id)]

/-- R188: MODE_CHANGED of a held mode change that a close applies. -/
def heldModeEvents (s : State) : List Raised :=
  match s.mgmt.heldMode with
  | none => []
  | some m => if m = .run ∧ (ready s = false ∨ keyWriteBusy s = true) then [] else [(.modeChanged, .none, s.mgmt.mode.no * 256 + m.no)]

/-- R58, R60: the event of a good downstream frame: LINK_STATE regained, if the link was lost. -/
def heardEvents (s : State) : List Raised := if s.link.state = .lost then [(.linkState, .none, 0)] else []

/-- The kinds that a selection run can raise (R5). -/
def runKinds : List EventKind := [.supplySwitch, .channelStarved, .channelFed]

/-- The kinds that the report of a slot's change of state can raise: those of its channel's selection run (R6) and of the end of an audit
that holds the slot (R151). -/
def changeKinds : List EventKind := [.supplySwitch, .channelStarved, .channelFed, .auditFinished]

/-- The kinds that level checks, selection runs and mode triggers can raise. -/
def checkKinds : List EventKind := [.levelLow, .slotDepleted, .supplySwitch, .channelStarved, .channelFed, .auditFinished]

/-- R48, R51, R188: after the events `first`, a close of the swath `w` raises SWATH_IRREGULAR, unless it is CLOSED, and MODE_CHANGED
if it applies a held mode change; besides these only what level checks, selection runs and mode triggers raise. The level events are
those of the held limits that take effect (R19), in the order of log 9; that is said of states with the channel laws, which every step
keeps, because only there a slot stands in one feed list. -/
def CloseRaises (first : List Raised) (o : SwathOutcome) (w : OpenSwath) (s t : State) : Prop :=
  ∃ before after, (∀ e ∈ before ++ after, e.1 ∈ checkKinds) ∧
    (ChannelsLawful s → before.filter (fun e => e.1 = .levelLow ∨ e.1 = .slotDepleted) = heldLevelEvents s ∧
      ∀ e ∈ after, e.1 ≠ .levelLow ∧ e.1 ≠ .slotDepleted) ∧
    Raises s t (first ++ closeEvents o w ++ before ++ heldModeEvents s ++ after)

/-- R109, R111: AUTH_REJECTED with reason number `no` for each slot named that is CHALLENGING or authenticated, in ascending slot order;
between them only what the report of a slot's change of state raises. -/
def RejectsInOrder (s t : State) (named : Identity → Bool) (no : Nat) : Prop :=
  ∃ all : List Raised, Raises s t all ∧
    (∀ e ∈ all, e.1 ∈ .authRejected :: changeKinds) ∧
    all.filter (fun e => e.1 = .authRejected) =
      ((List.finRange 16).filter (fun i => (s.slot i).identity.any named &&
        ((s.slot i).state.isChallenging || (s.slot i).state.authenticated))).map (fun i => (.authRejected, .slot i, no))

/-! ## Debits -/

/-- A command that debits `d` nL to channel `c`: a counted FIRING frame (R28, R30, R32), or a CHANNEL DEBIT that is carried out (R38).
A remainder is at most 9,999 (R36). -/
def Debits (cmd : Instr) (s : State) (c : ChannelNo) (d : Nat) : Prop :=
  s.powered = true ∧ s.mgmt.mode ≠ .standby ∧ (s.counter c).remainder ≤ 9999 ∧
  ((∃ (f : FiringFrame) (h : HeadNo), cmd = .firing f ∧ addressOf f.hdr = h.val ∧ (nth s.meter.headMap h).channel = some c ∧
      (s.chan c).gate = .opened ∧
      let v := frameVolume (nth (nth s.meter.active (nth s.meter.headMap h).set) f.waveform.toFin) f.codes
      (s.counter c).metered + v < 2 ^ 64 ∧ d = ((s.counter c).remainder + v) / 10000) ∨
    ∃ tag args rest, cmd = .channelDebit ∧ Serves s { tag, kind := 9#16, args } rest ∧ fields [1, 4] args = some [c.val, d] ∧
      1 ≤ d ∧ d ≤ 1000000 ∧ (s.chan c).state ≠ .unused ∧ (s.counter c).metered + d * 10000 < 2 ^ 64)

/-! ## Conditions and indicators -/

/-- R174: the values of a slot's eight conditions are those of its record. -/
def SlotConds.areOf (v : SlotConds) (sl : Slot) : Prop :=
  let returning (r : ReturnState) : Prop := sl.state = .challenging (.rechallenge r) ∨ sl.state = .challenging (.wake r)
  (v.present = true ↔ sl.state ≠ .empty ∧ sl.state ≠ .settling) ∧
  (v.authentic = true ↔
    sl.state = .genuine ∨ sl.state = .suspect ∨ sl.state = .depleted ∨ (∃ g, sl.state = .retiring g) ∨ ∃ r, returning r) ∧
  v.low = sl.low ∧
  (v.depleted = true ↔ sl.state = .depleted ∨ (∃ g, sl.state = .retiring g) ∨ sl.state = .exhausted ∨ returning .depleted) ∧
  (v.rejected = true ↔ ∃ r, sl.state = .rejected r) ∧
  (v.suspect = true ↔ sl.evidence ≠ {}) ∧
  (v.faulted = true ↔ ∃ r, sl.state = .faulted r) ∧
  v.auditFail = sl.auditFail

/-- R174: the values of a channel's three conditions are those of its record and its overdraw total. -/
def ChannelConds.areOf (v : ChannelConds) (ch : Channel) (k : Counters) : Prop :=
  (v.starved = true ↔ ch.state = .starved) ∧ (v.overdraw = true ↔ k.overdraw ≠ 0) ∧ v.switched = ch.switched

/-- R175, R178: the value that an operand reads for member `n`: of its condition, live or latched as its source says. -/
def Operand.member (o : Operand) (u : EventUnit) (n : Nat) : Prop :=
  let slot (f : SlotConds → Bool) : Prop :=
    ∃ i : SlotNo, i.val = n ∧ f (nth (if o.source = .live then u.slotLive else u.slotLatch) i) = true
  let channel (f : ChannelConds → Bool) : Prop :=
    ∃ c : ChannelNo, c.val = n ∧ f (nth (if o.source = .live then u.channelLive else u.channelLatch) c) = true
  match o.condition with
  | .present => slot (·.present)
  | .authentic => slot (·.authentic)
  | .low => slot (·.low)
  | .depleted => slot (·.depleted)
  | .rejected => slot (·.rejected)
  | .suspect => slot (·.suspect)
  | .faulted => slot (·.faulted)
  | .auditFail => slot (·.auditFail)
  | .starved => channel (·.starved)
  | .overdraw => channel (·.overdraw)
  | .switched => channel (·.switched)

/-- R178: ANY is true when a masked member is, ALL when every masked member is, and either is false over an empty mask; the invert flag
then turns the value over. -/
def Operand.reads (o : Operand) (u : EventUnit) : Prop :=
  let masked (n : Nat) : Prop := n < 16 ∧ o.mask.getLsbD n = true
  let value : Prop :=
    match o.reduce with
    | .any => ∃ n, masked n ∧ o.member u n
    | .all => (∃ n, masked n) ∧ ∀ n, masked n → o.member u n
  if o.invert then ¬value else value

/-- R178: the result of an indicator's operands. -/
def IndFields.holds (f : IndFields) (u : EventUnit) : Prop :=
  match f.second with
  | none => f.operand1.reads u
  | some (.or, o) => f.operand1.reads u ∨ o.reads u
  | some (.and, o) => f.operand1.reads u ∧ o.reads u
  | some (.xor, o) => (f.operand1.reads u ∧ ¬o.reads u) ∨ (¬f.operand1.reads u ∧ o.reads u)

/-- R178-R181: what an evaluation over the values `u` makes of an indicator entry. A rise and a fall of its result are taken by its mode;
the blink phase starts afresh as the output becomes ACTIVE. -/
def Indicator.Evaluated (d : Indicator) (u : EventUnit) (e : Indicator) : Prop :=
  let now : Prop := d.fields.holds u
  let delay := d.fields.delay
  let rise : Prop := d.fields.enabled = true ∧ d.result = false ∧ now
  let fall : Prop := d.fields.enabled = true ∧ d.result = true ∧ ¬now
  let becomes (active : Bool) (timer : Option Nat) (hold : Bool) : Prop := e.active = active ∧ e.timer = timer ∧ e.hold = hold
  e.fields = d.fields ∧ (¬rise → ¬fall → e = d) ∧
  (rise → e.result = true ∧
    (d.fields.mode = .steady → becomes true d.timer d.hold) ∧
    (d.fields.mode = .toggle → becomes (!d.active) d.timer d.hold) ∧
    (d.fields.mode = .pulse → delay = 0 → becomes d.active d.timer d.hold) ∧
    (d.fields.mode = .pulse → delay ≠ 0 → delay ≠ 255 → becomes true (some (delay * 50)) d.hold) ∧
    (d.fields.mode = .pulse → delay = 255 → becomes true d.timer true) ∧
    (d.fields.mode = .extend → becomes true none false)) ∧
  (fall → e.result = false ∧
    (d.fields.mode = .steady → becomes false d.timer d.hold) ∧
    (d.fields.mode = .toggle → becomes d.active d.timer d.hold) ∧
    (d.fields.mode = .pulse → becomes false none false) ∧
    (d.fields.mode = .extend → delay = 0 → becomes false d.timer d.hold) ∧
    (d.fields.mode = .extend → delay ≠ 0 → delay ≠ 255 → becomes d.active (some (delay * 50)) d.hold) ∧
    (d.fields.mode = .extend → delay = 255 → becomes d.active d.timer true)) ∧
  (d.active = false → e.active = true → e.blinkOn = true ∧ e.blinkMs = 0) ∧
  (d.active = true → e.active = true → e.blinkOn = d.blinkOn ∧ e.blinkMs = d.blinkMs)

/-- R70, R177: the bytes of an operand, in requests and results alike. -/
def Operand.bytes (o : Operand) : List Byte :=
  (match o.scope with
    | .slot => be 1 0 ++ be 1 o.condition.no ++ be 2 o.mask.toNat
    | .channel => be 1 1 ++ be 1 o.condition.no ++ be 1 o.mask.toNat) ++
  be 1 (if o.reduce = .any then 0 else 255) ++ be 1 (if o.source = .live then 0 else 1) ++ be 1 (if o.invert then 1 else 0)

/-- R70, R177: the bytes of an indicator's fields, in the order of R177's table. -/
def IndFields.bytes (f : IndFields) : List Byte :=
  be 1 (if f.enabled then 1 else 0) ++ f.operand1.bytes ++
    (match f.second with
      | none => be 1 0 ++ be 1 0
      | some (.or, o) => be 1 1 ++ (be 1 1 ++ o.bytes)
      | some (.and, o) => be 1 2 ++ (be 1 1 ++ o.bytes)
      | some (.xor, o) => be 1 3 ++ (be 1 1 ++ o.bytes)) ++
    be 1 (match f.mode with
      | .steady => 0
      | .pulse => 1
      | .extend => 2
      | .toggle => 3) ++
    (match f.drive with
      | .solid => be 1 0
      | .blink p => be 1 1 ++ be 1 p.val) ++
    be 1 f.delay ++ be 1 (if f.polarity = .activeHigh then 0 else 1)

/-- R177, R182: an operand whose condition is of its scope and whose mask names no member beyond it. -/
def Operand.Stated (o : Operand) : Prop :=
  match o.scope with
  | .slot => o.condition ∈ [Condition.present, .authentic, .low, .depleted, .rejected, .suspect, .faulted, .auditFail]
  | .channel => o.condition ∈ [Condition.starved, .overdraw, .switched] ∧ o.mask.toNat < 256

/-- R177, R182: fields that stand in their stated sets. -/
def IndFields.Stated (f : IndFields) : Prop :=
  f.operand1.Stated ∧ (∀ op o, f.second = some (op, o) → o.Stated) ∧ f.delay ≤ 255

/-! ## Lines and the schedule -/

/-- R86: the entries that the owed marks of a line stand for, in the order in which they are given places. -/
def owedEntries (l : LineNo) (ln : Line) : List TxEntry :=
  (List.finRange 4).flatMap (fun p =>
    ([TxKind.challenge, .identify, .usageWrite, .markExhausted, .recordRead].filter (nth ln.owed p).has).map (fun k =>
      { slot := slotAt l p, kind := k, requester := k.requester, origin := .other,
        record := if k = .recordRead then (nth ln.owed p).recordRead else none }))

/-- R86: `after` is the line `before` with the entries `kept` left in its queue and the places that are free given to owed marks. -/
def PlacesGiven (l : LineNo) (kept : List TxEntry) (owed : List TxEntry) (after : Line) : Prop :=
  after.queue = kept ++ owed.take (8 - kept.length) ∧ owedEntries l after = owed.drop (8 - kept.length)

/-- R156, R157, R160: at the next tick, which has count `T`, entry `n` is due with next due `due`, and no other entry is. -/
abbrev OnlyDue (s : State) (n : SchedNo) (T due : Nat) : Prop :=
  let dueOf (k : SchedNo) : Nat :=
    if s.schedule.action = .run then (nth s.schedule.entries k).offset else (nth s.schedule.entries k).nextDue
  s.powered = true ∧ 10 ≤ s.schedule.sinceTick ∧
  (s.schedule.action = .run ∧ T = 0 ∨
    s.schedule.action = .none ∧ s.schedule.running = true ∧ T = s.schedule.tick + 1 ∧ T < 2 ^ 48) ∧
  (nth s.schedule.entries n).enabled = true ∧ due = dueOf n ∧ due ≤ T ∧ due + (nth s.schedule.entries n).period < 2 ^ 48 ∧
  ∀ k, k ≠ n → (nth s.schedule.entries k).enabled = false ∨ T < dueOf k

/-! ## Transactions in flight and answers -/

/-- A transaction that was not withdrawn awaits its answer on a line, within its 20 ms (R82). -/
def Awaiting (s : State) (l : LineNo) (fl : Flight) : Prop :=
  (s.line l).flight = some fl ∧ fl.withdrawn = false ∧ ∃ ms, fl.phase = .awaiting (ms + 1)

/-- R72: a well-checked answer to the transaction with status OK and this payload. -/
abbrev AnswersOk (fl : Flight) (a : AnswerFrame) (payload : List Byte) : Prop :=
  a.checkOk = true ∧ a.echo = fl.entry.byte0 ∧ a.status = 0#8 ∧ a.payload = payload ∧ payload.length = fl.entry.kind.okLength

/-- What a line keeps of a transaction that has ended well (R83, R91). -/
def EndedWell (s t : State) (l : LineNo) : Prop :=
  (t.line l).flight = none ∧ (t.line l).counters = { (s.line l).counters with completed := sat32 ((s.line l).counters.completed + 1) }

/-! ## Laws that every step keeps -/

/-- R36: the conservation law and range of a channel's counters. -/
def Counters.lawful (k : Counters) : Prop :=
  k.metered = 10000 * (k.debited + k.overdraw + k.unattributed) + k.remainder ∧ k.remainder ≤ 9999 ∧ k.metered < 2 ^ 64

def CountersLawful (s : State) : Prop := ∀ c, (s.counter c).lawful

/-- The key writes that wait or are in progress, each with a promised response (R107-R109, R192). -/
def keyWrites (k : KeyStore) : Nat := k.current.toList.length + k.waiting.length

/-- R56, R65, R185, R191, R192: no list of the link and management units outgrows its places, and a place is promised for each
request served and not yet answered. -/
def PlacesLawful (s : State) : Prop :=
  s.mgmt.queue.length ≤ 4 ∧ s.mgmt.promised = keyWrites s.keys ∧ s.link.responses + s.mgmt.promised ≤ 7 ∧
    s.link.outgoing.length ≤ s.link.responses + 1 ∧ s.link.headBuf.length ≤ 4

/-- R49, R84, R85, R111, R169: the other lists keep within their capacities, and a line that holds an owed mark has a full queue. -/
def ListsLawful (s : State) : Prop :=
  s.events.queue.length ≤ 256 ∧ s.tracker.ring.length ≤ 16 ∧ s.deny.length ≤ 32 ∧
    ∀ l, (s.line l).queue.length ≤ 8 ∧ ((∃ p k, (nth (s.line l).owed p).has k = true) → (s.line l).queue.length = 8)

/-- R174, R175: the event unit's live values are those of the records. -/
def LiveAgree (s : State) : Prop :=
  (∀ i, (nth s.events.slotLive i).areOf (s.slot i)) ∧ ∀ c, (nth s.events.channelLive c).areOf (s.chan c) (s.counter c)

/-- R175: a CATCH_FALL latch is false wherever its live value is, and a CATCH_RISE latch true wherever its live value is. -/
def LatchesLawful (s : State) : Prop :=
  (∀ i : SlotNo,
    let v := nth s.events.slotLive i
    let l := nth s.events.slotLatch i
    (v.present = false → l.present = false) ∧ (v.authentic = false → l.authentic = false) ∧ (v.low = true → l.low = true) ∧
    (v.depleted = true → l.depleted = true) ∧ (v.rejected = true → l.rejected = true) ∧ (v.suspect = true → l.suspect = true) ∧
    (v.faulted = true → l.faulted = true) ∧ (v.auditFail = true → l.auditFail = true)) ∧
  ∀ c : ChannelNo,
    let v := nth s.events.channelLive c
    let l := nth s.events.channelLatch c
    (v.starved = true → l.starved = true) ∧ (v.overdraw = true → l.overdraw = true) ∧ (v.switched = true → l.switched = true)

/-- R175: a CATCH_FALL latch that is false stays false, and a CATCH_RISE latch that is true stays true. -/
def LatchesHold (s t : State) : Prop :=
  (∀ i : SlotNo,
    let a := nth s.events.slotLatch i
    let b := nth t.events.slotLatch i
    (a.present = false → b.present = false) ∧ (a.authentic = false → b.authentic = false) ∧ (a.low = true → b.low = true) ∧
    (a.depleted = true → b.depleted = true) ∧ (a.rejected = true → b.rejected = true) ∧ (a.suspect = true → b.suspect = true) ∧
    (a.faulted = true → b.faulted = true) ∧ (a.auditFail = true → b.auditFail = true)) ∧
  ∀ c : ChannelNo,
    let a := nth s.events.channelLatch c
    let b := nth t.events.channelLatch c
    (a.starved = true → b.starved = true) ∧ (a.overdraw = true → b.overdraw = true) ∧ (a.switched = true → b.switched = true)

/-- R175, R178: the condition values of `t` have reached its latches, each in its hold direction, and its indicators, which were evaluated
over them once. -/
def ReportReaches (s t : State) : Prop :=
  (∀ i : SlotNo,
    let a := nth s.events.slotLatch i
    let v := nth t.events.slotLive i
    nth t.events.slotLatch i =
      { present := a.present && v.present, authentic := a.authentic && v.authentic, low := a.low || v.low,
        depleted := a.depleted || v.depleted, rejected := a.rejected || v.rejected, suspect := a.suspect || v.suspect,
        faulted := a.faulted || v.faulted, auditFail := a.auditFail || v.auditFail }) ∧
  (∀ c : ChannelNo,
    let a := nth s.events.channelLatch c
    let v := nth t.events.channelLive c
    nth t.events.channelLatch c =
      { starved := a.starved || v.starved, overdraw := a.overdraw || v.overdraw, switched := a.switched || v.switched }) ∧
  ∀ n : IndNo, (nth s.indicators n).Evaluated t.events (nth t.indicators n)

/-- R177, R178: the result of an enabled indicator is that of its operands over the values as they stand; a disabled one keeps its result
false and its output INACTIVE. -/
def ResultsAgree (s : State) : Prop :=
  ∀ n : IndNo,
    let d := nth s.indicators n
    (d.fields.enabled = true → (d.result = true ↔ d.fields.holds s.events)) ∧
    (d.fields.enabled = false → d.result = false ∧ d.active = false)

/-- R40, R89, R139, R152, R158, R188, R190: in STANDBY no swath is open, no audit is active, the schedule is halted and stays so, and no
line is RUNNING; STANDBY is never held for a close, and an active audit names a slot. -/
def StandbyLawful (s : State) : Prop :=
  s.mgmt.heldMode ≠ some .standby ∧ (s.audit.state.active = true → s.audit.slot ≠ none) ∧
  (s.mgmt.mode = .standby → s.tracker.current = none ∧ s.audit.state.active = false ∧ s.schedule.running = false ∧
    s.schedule.action ≠ .run ∧ s.mgmt.heldMode = none ∧ ∀ l, (s.line l).condition ≠ .running)

/-- R99: the slot has a claim on its serial. -/
def Slot.claims (sl : Slot) : Bool := sl.state.authenticated || sl.state.rechallenging

/-- R99: no two slots with a claim hold the same serial. -/
def SerialsDistinct (s : State) : Prop :=
  ∀ i j serial, (s.slot i).claims = true → (s.slot j).claims = true → (s.slot i).serial? = some serial →
    (s.slot j).serial? = some serial → i = j

end Sys2Proof.Machine
end

