-- ==== Sys2Proof/Certificates/Slice0/Obligations.lean ====
section
/-!
DEFINITION. The statements for the provers. Each follows rules of the spec; what rests on a choice of the model names its log
entry.
-/

open Sys2Proof Sys2Proof.Machine

/-! ## Steps -/

/-- A step takes the front command and runs it on the queue's rest; on an empty queue the part idles (log 15, DESIGN CHOICE). -/
def Obligations.StepTakesTheFrontCommand : Prop :=
  (∀ (c : Instr) (s : State), step { s with pending := c :: s.pending } = exec c s) ∧
  ∀ s : State, s.pending = [] → step s = .next s

/-- Every command answers a next state and leaves the queue as it is; without power, only POWER_ON does anything (log 2, DEDUCED). -/
def Obligations.EveryCommandAnswersANextState : Prop :=
  ∀ (c : Instr) (s : State), ∃ t, exec c s = .next t ∧ t.pending = s.pending ∧
    (s.powered = false → (∀ pins, c ≠ .powerOn pins) → t = s)

/-! ## Power and resets -/

/-- The reset values of R2, R21, R24, R29, R34, R36, R40, R49, R56, R74, R90, R91, R95, R111, R116, R134, R139, R155, R156, R168, R169,
R174, R175, R177 and R185. The straps 0 and so the bridge address, the open contacts and so the EMPTY slots, the key table and the
history as fresh from manufacture (R107, R129) are the model's choice (log 5, DESIGN CHOICE). -/
def Obligations.ResetStateHoldsTheResetValues : Prop :=
  let s := State.reset
  s.pending = [] ∧ s.powered = true ∧
  (∀ c, s.chan c =
      { ink := 0, feed := [], policy := .warn, limits := { low := 0, reserve := 0, step := 0 }, held := none, active := none,
        state := .unused, gate := .closed, selectionHeld := false, switched := false } ∧
    s.counter c = { metered := 0, debited := 0, overdraw := 0, unattributed := 0, remainder := 0 }) ∧
  (∀ i, nth s.presence i = { closed := false, timer := none, wakeMark := false } ∧
    s.slot i =
      { state := .empty, identity := none, consumed := 0, committed := 0, sequence := 0, evidence := {}, low := false,
        auditFail := false, owedCommit := false, lastAuth := none } ∧
    nth s.handover i = false) ∧
  (∀ k, nth s.keys.cells k = .empty ∧ nth s.keys.image k = .empty) ∧ s.keys.current = none ∧ s.keys.waiting = [] ∧
  (∀ n, nth s.history.cells n = none ∧ nth s.history.image n = none) ∧
  (s.mgmt.mode = .setup ∧ s.mgmt.heldMode = none ∧ s.mgmt.queue = [] ∧ s.mgmt.promised = 0 ∧ s.mgmt.resetPending = false ∧
    s.mgmt.partTime = 0) ∧
  (s.link.state = .up ∧ s.link.failures = 0 ∧ s.link.reception = none ∧ s.link.headBuf = [] ∧ s.link.outgoing = [] ∧
    s.link.lane = none ∧ s.link.lastServed = .outgoing ∧ s.link.bridge = 40) ∧
  (s.tracker.current = none ∧ s.tracker.ring = [] ∧ s.tracker.closes = 0 ∧ s.tracker.limit = 0 ∧ s.tracker.heldLimit = none) ∧
  (∀ h, nth s.meter.headMap h = { channel := none, set := 0 } ∧ nth s.meter.unmappedReported h = false) ∧
  (∀ v w, nth (nth s.meter.active v) w = { small := 0, medium := 0, large := 0 } ∧
    nth (nth s.meter.staged v) w = { small := 0, medium := 0, large := 0 }) ∧ s.meter.stagedPending = false ∧
  (∀ c, nth s.meter.overdrawReported c = false ∧ nth s.meter.unattributedReported c = false) ∧
  (∀ l, (s.line l).condition = .held ∧ (s.line l).queue = [] ∧ (s.line l).flight = none ∧
    (∀ p k, (nth (s.line l).owed p).has k = false) ∧
    (s.line l).counters = { completed := 0, failed := 0, timeouts := 0, waits := 0, checks := 0 }) ∧
  (s.history.pending = [] ∧ s.history.writing = none ∧ s.history.scanning = true ∧ s.testArm = none ∧ s.deny = []) ∧
  (s.audit.state = .idle ∧ s.audit.slot = none ∧ s.audit.mode = .once ∧ s.audit.accumulate = false ∧ s.audit.passes = 0 ∧
    s.audit.failing = [] ∧ s.audit.firstFailure = none ∧ s.audit.pass = none) ∧
  (s.schedule.running = false ∧ s.schedule.action = .none ∧ s.schedule.tick = 0 ∧
    ∀ n, nth s.schedule.entries n =
      { enabled := false, slot := 0, kind := .rechallenge, period := 0, offset := 0, nextDue := 0, missed := 0 }) ∧
  (s.events.queue = [] ∧ s.events.overrun = false ∧
    (∀ k : EventKind, nth s.events.routes k.idx =
      { queue := true, notify := k ∈ [EventKind.authRejected, .refillSuspect, .duplicateSerial, .channelStarved, .slotFaulted] }) ∧
    (∀ i, nth s.events.slotLive i = {} ∧ nth s.events.slotLatch i = {}) ∧
    ∀ c, nth s.events.channelLive c = {} ∧ nth s.events.channelLatch c = {}) ∧
  ∀ i, (nth s.indicators i).fields =
      { enabled := false,
        operand1 := { scope := .slot, condition := .present, mask := 0#16, reduce := .any, source := .live, invert := false },
        second := none, mode := .steady, drive := .solid, delay := 0, polarity := .activeHigh } ∧
    (nth s.indicators i).lineHigh = false ∧ (nth s.indicators i).result = false ∧ (nth s.indicators i).active = false ∧
    (nth s.indicators i).timer = none ∧ (nth s.indicators i).hold = false

/-- R2, R107, R133, R185. POWER_ON and RESET_LINE: every block takes its reset values, the channel records those of R2; POWER_ON finds
the cells as the power loss left them, RESET_LINE completes writes in progress first. After a loss of power each cell holds the old
content or, where a write was in progress, the whole new one (log 10: the operands say which). -/
def Obligations.PowerAndResetLine : Prop :=
  (∀ (s : State) (pins : Pins), ∃ t, exec (.powerOn pins) s = .next t ∧ ResetFrom pins s.keys.cells s.history.cells s t ∧
    t.link.laneOut = s.link.laneOut) ∧
  (∀ (s : State) (pins : Pins), s.powered = true → ∃ t, exec (.resetLine pins) s = .next t ∧
    ResetFrom pins (keysWritten s) (historyWritten s) s t ∧ t.link.laneOut = s.link.laneOut) ∧
  (∀ (s : State) (pins : Pins) (c : Instr), c = .powerOn pins ∨ (c = .resetLine pins ∧ s.powered = true) →
    ∃ t, exec c s = .next t ∧ ∀ ch : ChannelNo,
      t.chan ch =
        { ink := 0, feed := [], policy := .warn, limits := { low := 0, reserve := 0, step := 0 }, held := none, active := none,
          state := .unused, gate := .closed, selectionHeld := false, switched := false } ∧
      t.counter ch = { metered := 0, debited := 0, overdraw := 0, unattributed := 0, remainder := 0 }) ∧
  ∀ (s : State) (historyDone keyDone : Bool), s.powered = true → ∃ t, exec (.powerLoss historyDone keyDone) s = .next t ∧
    t.powered = false ∧ t.keys.cells = (if keyDone then keysWritten s else s.keys.cells) ∧
    t.history.cells = (if historyDone then historyWritten s else s.history.cells) ∧ t.nonceNext = s.nonceNext

/-! ## The return side -/

/-- R67: at the end of a transmission the frame has left the lane, which takes the next frame of the source not served last. R196: the
reset of a PART RESET takes effect when the transmission of its response ends. -/
def Obligations.TransmissionEndFreesTheLane : Prop :=
  (∀ (s : State) (pins : Pins) (f : LaneFrame), s.powered = true → s.link.lane = some f →
    (s.mgmt.resetPending = false ∨ f.isReset = false) →
    ∃ t, exec (.transmissionEnd pins) s = .next t ∧ t.link.laneOut = s.link.laneOut ++ [f.frame s.link.bridge] ∧
      LaneTakes s.link t.link ∧ Keeps (.laneOut :: Foot.settle) s t) ∧
  ∀ (s : State) (pins : Pins) (tag : Byte) (results : List Byte), s.powered = true → s.mgmt.resetPending = true →
    s.link.lane = some (.own (.response { tag, kind := 44#16, status := .done, results })) →
    ∃ t, exec (.transmissionEnd pins) s = .next t ∧
      t.link.laneOut = s.link.laneOut ++
        [LaneFrame.frame s.link.bridge (.own (.response { tag, kind := 44#16, status := .done, results }))] ∧
      ResetFrom pins (keysWritten s) (historyWritten s) s t

/-- R64: a good upstream frame is buffered, or discarded with RETURN_DISCARD when the buffer holds 4; a bad one raises
LINK_CHECK_ERROR with direction RETURN; a loss of framing has no effect but the lane's own choice. -/
def Obligations.ReturnPortFrames : Prop :=
  (∀ (s : State) (f : LinkFrame), s.powered = true → ∃ t, exec (.headStatus f) s = .next t ∧
    Keeps (Foot.raise ++ Foot.lane) s t ∧
    (s.link.headBuf.length < 4 → t.events.queue = s.events.queue ∧
      (s.link.lane = none → LaneTakes { s.link with headBuf := s.link.headBuf ++ [f] } t.link) ∧
      (s.link.lane ≠ none → t.link.headBuf = s.link.headBuf ++ [f])) ∧
    (4 ≤ s.link.headBuf.length → (s.link.lane ≠ none → t.link.headBuf = s.link.headBuf) ∧
      (∀ h : HeadNo, addressOf f.hdr = h.val →
        t.events.queue = queueWith s .returnDiscard (.head h) (addressOf f.hdr * 256 + f.kind.toNat)) ∧
      (32 ≤ addressOf f.hdr →
        t.events.queue = queueWith s .returnDiscard .none (addressOf f.hdr * 256 + f.kind.toNat)))) ∧
  (∀ (s : State) (kind : Byte), s.powered = true → ∃ t, exec (.returnCheckFailure kind) s = .next t ∧
    t.events.queue = queueWith s .linkCheckError .none (65536 + kind.toNat) ∧ Keeps (Foot.raise ++ Foot.lane) s t) ∧
  ∀ s : State, s.powered = true → ∃ t, exec .headPortFramingLoss s = .next t ∧ Keeps Foot.lane s t

/-! ## FIRING frames -/

/-- R28: the treatment by head map and gate, with the metered total's limit of R36. -/
def Obligations.FiringTreatment : Prop :=
  ∀ (s : State) (f : FiringFrame) (h : HeadNo), s.powered = true → addressOf f.hdr = h.val → s.mgmt.mode ≠ .standby →
    ∃ t, exec (.firing f) s = .next t ∧
      match (nth s.meter.headMap h).channel with
      | none => t.link.headOut = s.link.headOut ∧ t.meter.counters = s.meter.counters ∧
          ∀ i, (t.slot i).consumed = (s.slot i).consumed
      | some c =>
        let v := frameVolume (nth (nth s.meter.active (nth s.meter.headMap h).set) f.waveform.toFin) f.codes
        ((s.chan c).gate = .closed ∨ 2 ^ 64 ≤ (s.counter c).metered + v →
          t.link.headOut = s.link.headOut ++ [({ f with codes := f.codes.map (fun _ => 0#8) } : FiringFrame).frame] ∧
          t.meter.counters = s.meter.counters ∧ ∀ i, (t.slot i).consumed = (s.slot i).consumed) ∧
        ((s.chan c).gate = .opened ∧ (s.counter c).metered + v < 2 ^ 64 →
          t.link.headOut = s.link.headOut ++ [f.frame] ∧ (t.counter c).metered = (s.counter c).metered + v ∧
          ∀ d, d ≠ c → t.counter d = s.counter d)

/-- R28, R29, R31, R36, R62: a discarded frame is counted in the open swath and reported once per head; a blanked one, for a CLOSED gate
or for a metered total that would pass 2^64 - 1, is counted in the open swath and raises nothing; in STANDBY the frame is dropped and
raises nothing. Nothing else changes. -/
def Obligations.UncountedFiringFrames : Prop :=
  (∀ (s : State) (f : FiringFrame) (h : HeadNo), s.powered = true → addressOf f.hdr = h.val → s.mgmt.mode ≠ .standby →
    (nth s.meter.headMap h).channel = none →
    ∃ t, exec (.firing f) s = .next t ∧
      t.tracker.current = s.tracker.current.map (fun w => { w with discarded := min (w.discarded + 1) (2 ^ 32 - 1) }) ∧
      (nth s.meter.unmappedReported h = true → t.events.queue = (goodFrame s).events.queue) ∧
      (nth s.meter.unmappedReported h = false →
        t.events.queue = queueWith (goodFrame s) .frameUnmapped (.head h) f.line.toNat) ∧
      t.meter.unmappedReported = upd s.meter.unmappedReported h true ∧
      Keeps ([.unmappedFlags, .openSwath] ++ Foot.heard ++ Foot.settle) s t) ∧
  (∀ (s : State) (f : FiringFrame) (h : HeadNo) (c : ChannelNo), s.powered = true → addressOf f.hdr = h.val →
    s.mgmt.mode ≠ .standby → (nth s.meter.headMap h).channel = some c →
    ((s.chan c).gate = .closed ∨
      2 ^ 64 ≤ (s.counter c).metered +
        frameVolume (nth (nth s.meter.active (nth s.meter.headMap h).set) f.waveform.toFin) f.codes) →
    ∃ t, exec (.firing f) s = .next t ∧
      t.link.headOut = s.link.headOut ++ [({ f with codes := f.codes.map (fun _ => 0#8) } : FiringFrame).frame] ∧
      t.tracker.current = s.tracker.current.map (fun w => { w with blanked := min (w.blanked + 1) (2 ^ 32 - 1) }) ∧
      t.events.queue = (goodFrame s).events.queue ∧ Keeps ([.headOut, .openSwath] ++ Foot.heard ++ Foot.settle) s t) ∧
  ∀ (s : State) (f : FiringFrame), s.powered = true → addressOf f.hdr < 32 → s.mgmt.mode = .standby →
    ∃ t, exec (.firing f) s = .next t ∧ t.events.queue = (goodFrame s).events.queue ∧ Keeps (Foot.heard ++ Foot.settle) s t

/-- R30, R32, R33, R36: a counted frame's volume in the channel's counters, the active slot and the open swath, and how a debit is
placed by the active slot's state. A swath volume past 2^64 - 1 is open (log 11), so it is left out; an active slot that is RETIRING
or EXHAUSTED does not arise (log 18, DEDUCED). -/
def Obligations.CountedFiringFrames : Prop :=
  (∀ (s : State) (f : FiringFrame) (h : HeadNo) (c : ChannelNo), s.powered = true → addressOf f.hdr = h.val →
    s.mgmt.mode ≠ .standby → (nth s.meter.headMap h).channel = some c → (s.chan c).gate = .opened →
    let v := frameVolume (nth (nth s.meter.active (nth s.meter.headMap h).set) f.waveform.toFin) f.codes
    let k := s.counter c
    let p := placing s c ((k.remainder + v) / 10000)
    k.metered + v < 2 ^ 64 →
    ∃ t, exec (.firing f) s = .next t ∧
      t.counter c =
        { metered := k.metered + v, debited := k.debited + p.taken, overdraw := k.overdraw + p.overdraw,
          unattributed := k.unattributed + p.unattributed, remainder := (k.remainder + v) % 10000 } ∧
      (∀ i, (t.slot i).consumed = (s.slot i).consumed + if (s.chan c).active = some i then p.taken else 0) ∧
      (s.tracker.current = none → t.tracker.current = none) ∧
      (∀ w, s.tracker.current = some w → nth w.volumes c + v < 2 ^ 64 →
        t.tracker.current = some
          { w with unchanged := min (w.unchanged + 1) (2 ^ 32 - 1), volumes := upd w.volumes c (nth w.volumes c + v) }) ∧
      Keeps (Foot.heard ++ Foot.counted ++ Foot.settle) s t) ∧
  ∀ (s : State) (c : ChannelNo) (d : Nat),
    ((s.chan c).active = none → placing s c d = { taken := 0, overdraw := 0, unattributed := d }) ∧
    ∀ a, (s.chan c).active = some a →
      let sl := s.slot a
      let h := ((sl.identity.map (·.capacity)).getD 0) - sl.consumed
      ((sl.state ∈ [.empty, .settling, .identifying, .challenging .first] ∨
          (((∃ r, sl.state = .rejected r) ∨ ∃ r, sl.state = .faulted r) ∧ sl.lastAuth = none)) →
        placing s c d = { taken := 0, overdraw := 0, unattributed := d }) ∧
      ((sl.state ∈ [.genuine, .suspect, .depleted] ∨ (∃ r, sl.state = .challenging (.rechallenge r)) ∨
          (∃ r, sl.state = .challenging (.wake r)) ∨
          (((∃ r, sl.state = .rejected r) ∨ ∃ r, sl.state = .faulted r) ∧ sl.lastAuth ≠ none)) →
        placing s c d = { taken := min d h, overdraw := d - min d h, unattributed := 0 })

/-- R12, R13, R15, R34, R35, R117, R118, R150: what follows a debit, of a FIRING frame or a CHANNEL DEBIT alike. OVERDRAW and UNATTRIBUTED
are raised once per flag; a debit that the slot takes something of is followed by the level check against the limits of the channel
that feeds from it, with LOW, DEPLETED and their events, by the step trigger, and by the commit-pressure test of an audit that holds
the slot. A slot that the debit makes DEPLETED is handed over for retirement where it is active nowhere, as after a selection run between
swaths (R15). That the first two events come before those of the level check, and those of the level check and its selection run before
AUDIT_FINISHED, is the model's order (log 9, DESIGN CHOICE). -/
def Obligations.DebitChecks : Prop :=
  ∀ (s : State) (cmd : Instr) (c : ChannelNo) (d : Nat), Debits cmd s c d →
    let p := placing s c d
    let first : List Raised :=
      (if 0 < p.overdraw ∧ nth s.meter.overdrawReported c = false then
        [(.overdraw, .channel c, slotOr255 (s.chan c).active)] else []) ++
      (if 0 < p.unattributed ∧ nth s.meter.unattributedReported c = false then
        [(.unattributed, .channel c, slotOr255 (s.chan c).active)] else [])
    ∃ t, exec cmd s = .next t ∧
      nth t.meter.overdrawReported c = (nth s.meter.overdrawReported c || decide (0 < p.overdraw)) ∧
      nth t.meter.unattributedReported c = (nth s.meter.unattributedReported c || decide (0 < p.unattributed)) ∧
      (∀ e, e ≠ c → nth t.meter.overdrawReported e = nth s.meter.overdrawReported e ∧
        nth t.meter.unattributedReported e = nth s.meter.unattributedReported e) ∧
      HandsOver s t ∧
      (p.taken = 0 → Raises (arrived cmd s) t first ∧
        Keeps ([.counters, .debitFlags, .headOut, .openSwath] ++ Foot.heard ++ Foot.request) s t) ∧
      ∀ i id, (s.chan c).active = some i → (s.slot i).identity = some id → 0 < p.taken →
        let lim := limitsOf s i
        let st := (s.slot i).state
        let consumed := (s.slot i).consumed + p.taken
        let rem := id.capacity - consumed
        let behind := consumed - (s.slot i).committed
        let due := st.commitEligible = true ∧ lim.step ≠ 0 ∧ lim.step ≤ behind
        let limit := if lim.step = 0 then 1000000 else 2 * lim.step
        RaisesThen (arrived cmd s) t
          (first ++ (if rem ≤ lim.low ∧ (s.slot i).low = false then [(.levelLow, .slot i, rem)] else []) ++
            (if rem ≤ lim.reserve ∧ (st ∈ [.genuine, .suspect] ∨
                st ∈ [SlotState.challenging (.rechallenge .genuine), .challenging (.rechallenge .suspect),
                  .challenging (.wake .genuine), .challenging (.wake .suspect)]) then [(.slotDepleted, .slot i, rem)] else []))
          [.supplySwitch, .channelStarved, .channelFed, .auditFinished] ∧
        (t.slot i).low = ((s.slot i).low || decide (rem ≤ lim.low)) ∧
        (lim.reserve < rem → (t.slot i).state = st) ∧
        (rem ≤ lim.reserve →
          (st = .genuine ∨ st = .suspect → (t.slot i).state = .depleted) ∧
          (∀ r, st = .challenging (.rechallenge r) → (t.slot i).state = .challenging (.rechallenge .depleted)) ∧
          (∀ r, st = .challenging (.wake r) → (t.slot i).state = .challenging (.wake .depleted)) ∧
          (st ≠ .genuine → st ≠ .suspect → st.rechallenging = false → (t.slot i).state = st)) ∧
        (heldSlot s ≠ some i → due →
          (isPending s i .usageWrite = true → (t.slot i).owedCommit = true ∧ t.lines = s.lines) ∧
          (isPending s i .usageWrite = false → isPending t i .usageWrite = true ∧ (t.slot i).owedCommit = (s.slot i).owedCommit)) ∧
        (heldSlot s ≠ some i → ¬due → t.lines = s.lines ∧ (t.slot i).owedCommit = (s.slot i).owedCommit) ∧
        (heldSlot s = some i → behind ≤ limit → t.audit = s.audit ∧ t.lines = s.lines ∧
          (due → (t.slot i).owedCommit = true) ∧ (¬due → (t.slot i).owedCommit = (s.slot i).owedCommit)) ∧
        (heldSlot s = some i → limit < behind →
          t.audit = { s.audit with state := .aborted .commitPressure, pass := none } ∧
          (st.commitEligible = true → isPending t i .usageWrite = true)) ∧
        ∀ j, j ≠ i → (t.slot j) = (s.slot j)

/-! ## Swaths -/

/-- R42, R43, R40: in SETUP and RUN a SWATH_OPEN is forwarded and opens a swath, cutting one that is open (R48, R167: SWATH_IRREGULAR);
in STANDBY it is only forwarded. That SWATH_IRREGULAR comes before the events of the other blocks is the model's order (log 9). The level
checks that the cut makes of held limits (R19), with their events, are stated for states with the channel laws, as in SwathCloses. -/
def Obligations.SwathOpenOpensASwath : Prop :=
  (∀ (s : State) (hdr : Byte) (id : BitVec 16), s.powered = true → s.mgmt.mode ≠ .standby →
    ∃ t, exec (.swathOpen hdr id) s = .next t ∧ t.link.headOut = s.link.headOut ++ [swathFrame 0x11#8 hdr id] ∧
      t.tracker.current = some
        { id := id.toNat, openTime := s.mgmt.partTime, elapsed := 0,
          limit := if s.tracker.current.isSome then s.tracker.heldLimit.getD s.tracker.limit else s.tracker.limit,
          volumes := fill 0, unchanged := 0, blanked := 0, discarded := 0 } ∧
      (∀ h, nth t.meter.unmappedReported h = false) ∧
      (∀ c, nth t.meter.overdrawReported c = false ∧ nth t.meter.unattributedReported c = false) ∧
      (∀ w, s.tracker.current = some w → ClosedWith .cut w s t ∧ CloseRaises (heardEvents s) .cut w s t) ∧
      (s.tracker.current = none → t.events.queue = (goodFrame s).events.queue ∧
        Keeps ([.headOut, .openSwath, .unmappedFlags, .debitFlags] ++ Foot.heard ++ Foot.settle) s t)) ∧
  ∀ (s : State) (hdr : Byte) (id : BitVec 16), s.powered = true → s.mgmt.mode = .standby →
    ∃ t, exec (.swathOpen hdr id) s = .next t ∧ t.link.headOut = s.link.headOut ++ [swathFrame 0x11#8 hdr id] ∧
      t.events.queue = (goodFrame s).events.queue ∧ Keeps (.headOut :: Foot.heard ++ Foot.settle) s t

/-- R19, R44, R46, R48, R51, R167: a SWATH_CLOSE is forwarded and closes the open swath, as CLOSED for its own id and as MISMATCHED for
another; in STANDBY it is only forwarded. At its limit in force the open swath closes as EXPIRED; before that, and with limit 0, nothing
happens (log 14). Any outcome but CLOSED raises SWATH_IRREGULAR, before the events of the other blocks in the model's order (log 9). The
close applies held limits and makes the level checks of R19 against them, with their events in the order of log 9; the level checks are
stated for states with the channel laws, which every step keeps (StepsKeepTheChannelLaws). -/
def Obligations.SwathCloses : Prop :=
  (∀ (s : State) (hdr : Byte) (id : BitVec 16) (w : OpenSwath), s.powered = true → s.mgmt.mode ≠ .standby →
    s.tracker.current = some w →
    let o : SwathOutcome := if w.id = id.toNat then .closed else .mismatched id.toNat
    ∃ t, exec (.swathClose hdr id) s = .next t ∧ t.link.headOut = s.link.headOut ++ [swathFrame 0x12#8 hdr id] ∧
      t.tracker.current = none ∧ ClosedWith o w s t ∧ CloseRaises (heardEvents s) o w s t ∧
      Keeps (.headOut :: Foot.heard ++ Foot.close ++ Foot.settle) s t) ∧
  (∀ (s : State) (hdr : Byte) (id : BitVec 16), s.powered = true → s.mgmt.mode = .standby →
    ∃ t, exec (.swathClose hdr id) s = .next t ∧ t.link.headOut = s.link.headOut ++ [swathFrame 0x12#8 hdr id] ∧
      t.events.queue = (goodFrame s).events.queue ∧ Keeps (.headOut :: Foot.heard ++ Foot.settle) s t) ∧
  (∀ (s : State) (w : OpenSwath), s.powered = true → s.tracker.current = some w → w.limit ≠ 0 → w.limit ≤ w.elapsed →
    ∃ t, exec .swathExpiry s = .next t ∧ t.tracker.current = none ∧ ClosedWith .expired w s t ∧ CloseRaises [] .expired w s t ∧
      Keeps (Foot.close ++ Foot.settle) s t) ∧
  ∀ (s : State), s.powered = true → (∀ w, s.tracker.current = some w → w.limit = 0 ∨ w.elapsed < w.limit) →
    ∃ t, exec .swathExpiry s = .next t ∧ Keeps Foot.settle s t

/-- R45: a stray close is forwarded and reported, and changes nothing else. The detail is R167's: outcome STRAY (5) and the id. -/
def Obligations.StrayCloseChangesNoSwath : Prop :=
  ∀ (s : State) (hdr : Byte) (id : BitVec 16), s.powered = true → s.mgmt.mode ≠ .standby → s.tracker.current = none →
    ∃ t, exec (.swathClose hdr id) s = .next t ∧ t.link.headOut = s.link.headOut ++ [swathFrame 0x12#8 hdr id] ∧
      t.tracker = s.tracker ∧ t.events.queue = queueWith (goodFrame s) .swathIrregular .none (5 * 65536 + id.toNat) ∧
      Keeps (.headOut :: Foot.heard ++ Foot.settle) s t

/-! ## Other downstream frames -/

/-- R61, R63: another good frame is forwarded unchanged unless it is for the part itself, which discards it with
MANAGEMENT_DISCARD, or is a FIRING frame in STANDBY. -/
def Obligations.OtherFramesAreForwarded : Prop :=
  (∀ (s : State) (f : LinkFrame), s.powered = true → (Instr.headControl f).wf = true → addressOf f.hdr ≠ s.link.bridge →
    ¬(f.kind = 0x10#8 ∧ s.mgmt.mode = .standby) →
    ∃ t, exec (.headControl f) s = .next t ∧ t.link.headOut = s.link.headOut ++ [f] ∧
      t.events.queue = (goodFrame s).events.queue ∧ Keeps (.headOut :: Foot.heard ++ Foot.settle) s t) ∧
  (∀ (s : State) (f : LinkFrame), s.powered = true → (Instr.headControl f).wf = true → addressOf f.hdr = s.link.bridge →
    f.kind ≠ 0x14#8 → ¬(f.kind = 0x10#8 ∧ s.mgmt.mode = .standby) →
    ∃ t, exec (.headControl f) s = .next t ∧ t.events.queue = queueWith (goodFrame s) .managementDiscard .none f.kind.toNat ∧
      Keeps (Foot.heard ++ Foot.settle) s t) ∧
  ∀ (s : State) (f : LinkFrame), s.powered = true → (Instr.headControl f).wf = true → f.kind = 0x10#8 → s.mgmt.mode = .standby →
    ∃ t, exec (.headControl f) s = .next t ∧ t.events.queue = (goodFrame s).events.queue ∧ Keeps (Foot.heard ++ Foot.settle) s t

/-- R191: a request joins the queue, is answered BUSY, or is discarded with no response. -/
def Obligations.ManagementTakesRequests : Prop :=
  ∀ (s : State) (tag : Byte) (kind : BitVec 16) (args : List Byte), s.powered = true →
    let noNewResponse (t : State) : Prop := ∀ r, OutFrame.response r ∈ ownFrames t → OutFrame.response r ∈ ownFrames s
    ∃ t, exec (.management tag kind args) s = .next t ∧
      (s.mgmt.queue.length < 4 → t.mgmt.queue = s.mgmt.queue ++ [{ tag := tag, kind := kind, args := args }] ∧
        t.events.queue = (goodFrame s).events.queue ∧ noNewResponse t ∧ Keeps (.requests :: Foot.heard ++ Foot.settle) s t) ∧
      (4 ≤ s.mgmt.queue.length → 1 ≤ available s →
        lastAnswer t tag kind .busy [] ∧ t.events.queue = (goodFrame s).events.queue ∧ Keeps (Foot.heard ++ Foot.settle) s t) ∧
      (4 ≤ s.mgmt.queue.length → available s = 0 →
        t.events.queue = queueWith (goodFrame s) .managementDiscard .none (2 ^ 24 + tag.toNat * 65536 + kind.toNat) ∧
        noNewResponse t ∧ Keeps (Foot.heard ++ Foot.settle) s t)

/-- R58, R59, R60, R47, R167: the third failed frame in a row, or a loss of framing, loses the link and closes the open swath as ABORTED;
a lost link counts no failures and its count stands at 3 (for cause FRAMING that is read from R56 and R60, log 20). Any good downstream
frame sets the failure count to 0 and regains a lost link, and is then taken as one that found the link up. That LINK_STATE comes before
the events of the close is the model's order (log 9). The close's level checks of held limits (R19), with their events, are stated for
states with the channel laws, as in SwathCloses. -/
def Obligations.FailuresLoseTheLink : Prop :=
  (∀ (s : State) (kind : Byte), s.powered = true → s.link.state = .up → s.link.failures < 2 →
    ∃ t, exec (.checkFailure kind) s = .next t ∧ t.link.state = .up ∧ t.link.failures = s.link.failures + 1 ∧
      t.events.queue = queueWith s .linkCheckError .none ((s.link.failures + 1) * 256 + kind.toNat) ∧
      Keeps (.linkState :: Foot.raise ++ Foot.settle) s t) ∧
  (∀ (s : State) (c : Instr) (cause : List Raised), s.powered = true → s.link.state = .up →
    ((∃ kind, c = .checkFailure kind ∧
        cause = [(.linkCheckError, .none, (s.link.failures + 1) * 256 + kind.toNat), (.linkState, .none, 1)]) ∧
      2 ≤ s.link.failures) ∨
      (c = .lossOfFraming ∧ cause = [(.linkState, .none, 2)]) →
    ∃ t, exec c s = .next t ∧ t.link.state = .lost ∧ t.link.failures = 3 ∧ t.tracker.current = none ∧
      (s.tracker.current = none → Raises s t cause) ∧
      (∀ w, s.tracker.current = some w → ClosedWith .aborted w s t ∧ CloseRaises cause .aborted w s t) ∧
      Keeps (Foot.heard ++ Foot.close ++ Foot.settle) s t) ∧
  (∀ (s : State) (c : Instr), s.powered = true → s.link.state = .lost → (∃ kind, c = .checkFailure kind) ∨ c = .lossOfFraming →
    ∃ t, exec c s = .next t ∧ Keeps (.reception :: Foot.settle) s t) ∧
  ∀ (s : State) (c : Instr), s.powered = true →
    (∃ f, c = .firing f) ∨ (∃ hdr id, c = .swathOpen hdr id) ∨ (∃ hdr id, c = .swathClose hdr id) ∨
      (∃ f, c = .headControl f ∧ c.wf = true) ∨ (∃ tag kind args, c = .management tag kind args) →
    exec c s = exec c (goodFrame s) ∧
      (s.link.state = .lost → (goodFrame s).events.queue = queueWith s .linkState .none 0) ∧
      (s.link.state = .up → (goodFrame s).events = s.events) ∧
      ∃ t, exec c s = .next t ∧ t.link.state = .up ∧ t.link.failures = 0

/-! ## Indicators -/

/-- R180, R181: a delay timer that has run out makes the output INACTIVE; the blink phase turns at the end of the on-time and of
the period. Before that nothing happens (log 14). -/
def Obligations.IndicatorTimersAndBlink : Prop :=
  (∀ (s : State) (i : IndNo), s.powered = true → ∃ t, exec (.indicatorTimerExpiry i) s = .next t ∧
    (∀ j, j ≠ i → nth t.indicators j = nth s.indicators j) ∧
    ((nth s.indicators i).timer = some 0 → (nth t.indicators i).active = false ∧ (nth t.indicators i).timer = none ∧
      (nth t.indicators i).fields = (nth s.indicators i).fields ∧ (nth t.indicators i).result = (nth s.indicators i).result ∧
      (nth t.indicators i).hold = (nth s.indicators i).hold) ∧
    ((nth s.indicators i).timer ≠ some 0 → nth t.indicators i = nth s.indicators i) ∧ Keeps (.indicators :: Foot.lane) s t) ∧
  ∀ (s : State) (i : IndNo), s.powered = true → ∃ t, exec (.blinkPhase i) s = .next t ∧
    (∀ j, j ≠ i → nth t.indicators j = nth s.indicators j) ∧
    (∀ p, (nth s.indicators i).fields.drive = .blink p → (nth s.indicators i).active = true →
      let d := nth s.indicators i
      (d.blinkOn = true → (blinkPattern p).2 ≤ d.blinkMs → nth t.indicators i = { d with blinkOn := false }) ∧
      (d.blinkOn = false → (blinkPattern p).1 ≤ d.blinkMs →
        nth t.indicators i = { d with blinkOn := true, blinkMs := d.blinkMs - (blinkPattern p).1 }) ∧
      (d.blinkMs < (if d.blinkOn then (blinkPattern p).2 else (blinkPattern p).1) → nth t.indicators i = d)) ∧
    ((nth s.indicators i).fields.drive = .solid ∨ (nth s.indicators i).active = false →
      nth t.indicators i = nth s.indicators i) ∧ Keeps (.indicators :: Foot.lane) s t

/-- R70, R177-R180, R182, R183: a write replaces the fields, spelled out byte by byte, and restarts the running state, which a true result
then takes as a rise; arguments that spell no fields in their stated sets are BAD_ARGUMENT, among them an index outside 0-7, a condition of
the other scope, operand 2 against combine, a pattern outside 0-7 and bytes left over. A release ends what an indicator holds, by its
mode, and a single disabled entry is BAD_STATE. The numbers of the two-valued fields, the one byte of a channel mask, which cannot name a
member beyond 7, and an output sent as ACTIVE 0, INACTIVE 1 are log 12's reading of R70 (DEDUCED). -/
def Obligations.IndicatorWriteAndRelease : Prop :=
  (∀ (s : State) (args : List Byte), (∀ (n : IndNo) (f : IndFields), f.Stated → args ≠ be 1 n.val ++ f.bytes) →
    Carries .indicatorWrite 38#16 args .badArgument [] s s) ∧
  (∀ (s : State) (tag : Byte) (rest : List Request) (n : IndNo) (f : IndFields),
    Serves s { tag, kind := 38#16, args := be 1 n.val ++ f.bytes } rest → f.Stated →
    ∃ t, exec .indicatorWrite s = .next t ∧
      let d := nth t.indicators n
      d.fields = f ∧ (d.result = true ↔ f.enabled = true ∧ f.holds s.events) ∧
      ({ fields := f, result := false, active := false, timer := none, hold := false, blinkOn := true, blinkMs := 0 } :
        Indicator).Evaluated s.events d ∧
      (f.mode ≠ .pulse → d.active = d.result ∧ d.timer = none ∧ d.hold = false) ∧
      (f.mode = .pulse → f.delay = 0 ∨ d.result = false → d.active = false ∧ d.timer = none ∧ d.hold = false) ∧
      (f.mode = .pulse → f.delay = 255 → d.active = d.result ∧ d.timer = none ∧ d.hold = d.result) ∧
      (f.mode = .pulse → f.delay ≠ 0 → f.delay ≠ 255 → d.result = true → d.active = true ∧ d.timer = some (f.delay * 50) ∧
        d.hold = false) ∧
      (∀ j, j ≠ n → nth t.indicators j = nth s.indicators j) ∧
      lastAnswer t tag 38#16 .done (be 1 (flagNo d.result) ++ be 1 (if d.active then 0 else 1)) ∧
      Keeps (.indicators :: Foot.request) s t) ∧
  (∀ (s : State) (n : IndNo), (nth s.indicators n).fields.enabled = false →
    Carries .indicatorRelease 39#16 [BitVec.ofNat 8 n.val] .badState [] s s) ∧
  (∀ (s : State) (b : Byte), 8 ≤ b.toNat → b ≠ 0xFF#8 → Carries .indicatorRelease 39#16 [b] .badArgument [] s s) ∧
  ∀ (s : State) (tag b : Byte) (rest : List Request), Serves s { tag, kind := 39#16, args := [b] } rest →
    (b = 0xFF#8 ∨ ∃ n : IndNo, b.toNat = n.val ∧ (nth s.indicators n).fields.enabled = true) →
    ∃ t, exec .indicatorRelease s = .next t ∧
      (∀ i : IndNo, (b = 0xFF#8 ∨ b.toNat = i.val) ∧ (nth s.indicators i).fields.enabled = true →
        let d := nth s.indicators i
        let e := nth t.indicators i
        (d.fields.mode = .steady → e = d) ∧
        (d.fields.mode = .toggle → e.active = false ∧ e.result = d.result ∧ e.fields = d.fields) ∧
        (d.fields.mode = .pulse ∨ (d.fields.mode = .extend ∧ d.result = false) →
          e.active = false ∧ e.timer = none ∧ e.hold = false ∧ e.result = d.result ∧ e.fields = d.fields) ∧
        (d.fields.mode = .extend → d.result = true → e = d)) ∧
      (∀ i : IndNo, ¬((b = 0xFF#8 ∨ b.toNat = i.val) ∧ (nth s.indicators i).fields.enabled = true) →
        nth t.indicators i = nth s.indicators i) ∧
      (∀ n : IndNo, b.toNat = n.val → lastAnswer t tag 39#16 .done (be 1 (if (nth t.indicators n).active then 0 else 1))) ∧
      Keeps (.indicators :: Foot.request) s t

/-! ## Presence and retirement -/

/-- R75, R76: a contact that closes at an EMPTY slot starts settling with the full 200 ms; at any other slot only the contact is
noted. Settling ends by the mode, in SETUP and RUN with SLOT_INSERTED, before the events of the other blocks in the model's order (log
9); before the timer has run out nothing happens (log 14). Where the slot stands in no feed list, its new condition values reach the
latches (R175) and the indicators, whose rises and falls their modes take (R178-R180), in one report; this is stated for states with the
laws of StepsKeepLiveValuesTrue. -/
def Obligations.ContactClosingAndSettling : Prop :=
  (∀ (s : State) (i : SlotNo), s.powered = true → (nth s.presence i).closed = false → (s.slot i).state = .empty →
    ∃ t, exec (.contactClose i) s = .next t ∧ (t.slot i).state = .settling ∧
      nth t.presence i = { closed := true, timer := some 200, wakeMark := false } ∧
      (∀ j, j ≠ i → nth t.presence j = nth s.presence j) ∧ OtherSlotsSame i s t ∧
      Keeps ([.presence, .slotState] ++ Foot.changed ++ Foot.settle) s t) ∧
  (∀ (s : State) (i : SlotNo), s.powered = true → (nth s.presence i).closed = true ∨ (s.slot i).state ≠ .empty →
    ∃ t, exec (.contactClose i) s = .next t ∧ nth t.presence i = { nth s.presence i with closed := true } ∧
      (∀ j, j ≠ i → nth t.presence j = nth s.presence j) ∧ Keeps (.presence :: Foot.settle) s t) ∧
  (∀ (s : State) (i : SlotNo), s.powered = true → (nth s.presence i).closed = true → (s.slot i).state = .settling →
    (nth s.presence i).timer = some 0 → s.mgmt.mode ≠ .standby →
    ∃ t, exec (.settlingEnd i) s = .next t ∧ (t.slot i).state = .identifying ∧
      nth t.presence i = { closed := true, timer := none, wakeMark := false } ∧ isPending t i .identify = true ∧
      RaisesThen s t [(.slotInserted, .slot i, 0)] [.supplySwitch, .channelStarved, .channelFed, .auditFinished] ∧
      (channelOf s i = none → heldSlot s ≠ some i → Raises s t [(.slotInserted, .slot i, 0)]) ∧
      (channelOf s i = none → LiveAgree s → LatchesLawful s → ReportReaches s t) ∧
      OtherSlotsSame i s t ∧ Keeps ([.presence, .slotState] ++ Foot.changed ++ Foot.settle) s t) ∧
  (∀ (s : State) (i : SlotNo), s.powered = true → (nth s.presence i).closed = true → (s.slot i).state = .settling →
    (nth s.presence i).timer = some 0 → s.mgmt.mode = .standby →
    ∃ t, exec (.settlingEnd i) s = .next t ∧ nth t.presence i = { closed := true, timer := none, wakeMark := true } ∧
      Keeps (.presence :: Foot.settle) s t) ∧
  ∀ (s : State) (i : SlotNo), s.powered = true → (nth s.presence i).timer ≠ some 0 →
    ∃ t, exec (.settlingEnd i) s = .next t ∧ Keeps Foot.settle s t

/-- R75, R77, R87, R95, R130: an opening contact ends settling, or removes the cartridge: SLOT_REMOVED is raised, the record is cleared,
its transactions are withdrawn, and the entry it held is updated. That SLOT_REMOVED comes before the events of the other blocks is the
model's order (log 9). Where the slot stands in no feed list, the report reaches latches and indicators (R175, R178-R180) as in
ContactClosingAndSettling. -/
def Obligations.ContactOpeningRemoves : Prop :=
  (∀ (s : State) (i : SlotNo), s.powered = true → (nth s.presence i).closed = true → (s.slot i).state = .settling →
    ∃ t, exec (.contactOpen i) s = .next t ∧ (t.slot i).state = .empty ∧
      nth t.presence i = { closed := false, timer := none, wakeMark := false } ∧ OtherSlotsSame i s t ∧
      Keeps ([.presence, .slotState] ++ Foot.changed ++ Foot.settle) s t) ∧
  (∀ (s : State) (i : SlotNo), s.powered = true → (nth s.presence i).closed = true → (s.slot i).state ≠ .settling →
    (s.slot i).state ≠ .empty →
    ∃ t, exec (.contactOpen i) s = .next t ∧
      t.slot i =
        { state := .empty, identity := none, consumed := 0, committed := 0, sequence := 0, evidence := {}, low := false,
          auditFail := false, owedCommit := false, lastAuth := none } ∧
      nth t.presence i = { closed := false, timer := none, wakeMark := false } ∧ OtherSlotsSame i s t ∧
      (∀ e ∈ (t.line (lineOf i)).queue, e.slot ≠ i) ∧ (∀ k, (nth (t.line (lineOf i)).owed (posOf i)).has k = false) ∧
      (∀ fl, (t.line (lineOf i)).flight = some fl → fl.entry.slot = i → fl.withdrawn = true) ∧
      RaisesThen s t [(.slotRemoved, .slot i, (s.slot i).state.no)]
        [.supplySwitch, .channelStarved, .channelFed, .auditFinished] ∧
      (channelOf s i = none → heldSlot s ≠ some i → Raises s t [(.slotRemoved, .slot i, (s.slot i).state.no)]) ∧
      (channelOf s i = none → LiveAgree s → LatchesLawful s → ReportReaches s t) ∧
      HeldEntryTakes s t i (removalUpdate s i) ∧
      Keeps (.presence :: Foot.slot ++ Foot.history ++ Foot.changed ++ Foot.settle) s t) ∧
  ∀ (s : State) (i : SlotNo), s.powered = true → (nth s.presence i).closed = true → (s.slot i).state = .empty →
    ∃ t, exec (.contactOpen i) s = .next t ∧ nth t.presence i = { closed := false, timer := none, wakeMark := false } ∧
      Keeps (.presence :: Foot.settle) s t

/-- R126: a hand-over taken while the slot is DEPLETED starts its retirement; one that finds the slot otherwise is dropped, and so
is one that finds it feeding a channel again (log 9, DESIGN CHOICE). -/
def Obligations.HandoverStartsRetirement : Prop :=
  (∀ (s : State) (i : SlotNo), s.powered = true → nth s.handover i = true → (s.slot i).state = .depleted →
    (∀ c, (s.chan c).active ≠ some i) →
    ∃ t, exec (.retirementHandover i) s = .next t ∧
      ((s.slot i).committed < (s.slot i).consumed →
        (t.slot i).state = .retiring .finalWrite ∧ isPending t i .usageWrite = true) ∧
      (¬(s.slot i).committed < (s.slot i).consumed → isPending s i .usageWrite = true →
        (t.slot i).state = .retiring .finalWrite) ∧
      (¬(s.slot i).committed < (s.slot i).consumed → isPending s i .usageWrite = false →
        (t.slot i).state = .retiring .marking ∧ isPending t i .markExhausted = true) ∧
      (∀ serial n e, (s.slot i).serial? = some serial → (s.slot i).lastAuth ≠ none → s.history.find serial = some n →
        s.history.entry n = some e →
        t.history.entry n = some { e with state := .exhausted, lastSeen := s.mgmt.partTime }) ∧
      OtherSlotsSame i s t ∧ Keeps (.slotState :: Foot.history ++ Foot.changed ++ Foot.settle) s t) ∧
  ∀ (s : State) (i : SlotNo), s.powered = true → (s.slot i).state ≠ .depleted ∨ (∃ c, (s.chan c).active = some i) →
    ∃ t, exec (.retirementHandover i) s = .next t ∧ nth t.handover i = false ∧
      (∀ j, j ≠ i → nth t.handover j = nth s.handover j) ∧ Keeps (.handover :: Foot.settle) s t

/-- R5, R6, R7, R8, R9, R15, R51: selection runs. A slot's change of state, here a removal and the answer to a later challenge, makes the
run of the channel whose feed list holds it: the active slot is kept while it is usable, otherwise the first usable slot of the list
is taken, with the events and SWITCHED of R5 and R9; while a swath is open the run is only held. A close first makes SWITCHED false and
then makes the held runs. A DEPLETED slot that a run leaves is handed over for retirement. That the runs of a close come in ascending
channel order, and a run before AUDIT_FINISHED, is the model's choice (log 9). A close first makes the level checks of the limits that
were held (R19), each slot that they make DEPLETED with a run of its own; then come the held runs. The close's hand-over and its level
checks are stated for states with the channel laws, which every step keeps (StepsKeepTheChannelLaws): without them two channels could
share a slot. -/
def Obligations.SelectionRuns : Prop :=
  (∀ (s : State) (i : SlotNo) (c : ChannelNo), s.powered = true → (nth s.presence i).closed = true →
    (s.slot i).state ≠ .settling → (s.slot i).state ≠ .empty → channelOf s i = some c →
    let removed : Raised := (.slotRemoved, .slot i, (s.slot i).state.no)
    ∃ t, exec (.contactOpen i) s = .next t ∧ (∀ d, d ≠ c → t.chan d = s.chan d) ∧
      (s.tracker.current = none → RunDecides (s.chan c) (fun j => (t.slot j).state) s.mgmt.mode (t.chan c) ∧
        RaisesThen s t (removed :: runEvents c (s.chan c) (t.chan c)) [.auditFinished] ∧
        (heldSlot s ≠ some i → Raises s t (removed :: runEvents c (s.chan c) (t.chan c))) ∧
        HandsOver s t) ∧
      (s.tracker.current ≠ none → t.chan c = { s.chan c with selectionHeld := true } ∧ RaisesThen s t [removed] [.auditFinished])) ∧
  (∀ (s : State) (l : LineNo) (a : AnswerFrame) (fl : Flight) (p : List Byte) (nonce : BitVec 64) (id : Identity) (k : KeyNo)
    (r : ReturnState) (kind : Challenge) (c : ChannelNo),
    s.powered = true → Awaiting s l fl → fl.entry.kind = .challenge → fl.payload = .nonce nonce → AnswersOk fl a p →
    kind = .rechallenge r ∨ kind = .wake r → (s.slot fl.entry.slot).state = .challenging kind →
    (s.slot fl.entry.slot).identity = some id → id.keyId = k.val →
    Config.challengeCode (nth s.keys.image k).secret id.serial nonce (part 8 4 p) (part 12 4 p) = BitVec.ofNat 64 (part 0 8 p) →
    part 8 4 p = (s.slot fl.entry.slot).sequence → part 12 4 p = (s.slot fl.entry.slot).committed →
    channelOf s fl.entry.slot = some c →
    let passed : Raised := (.authPassed, .slot fl.entry.slot, kind.no * 256 + r.state.no)
    ∃ t, exec (.answerFrame l a) s = .next t ∧ (t.slot fl.entry.slot).state = r.state ∧ (∀ d, d ≠ c → t.chan d = s.chan d) ∧
      HandsOver s t ∧
      (s.tracker.current = none → RunDecides (s.chan c) (fun j => (t.slot j).state) s.mgmt.mode (t.chan c) ∧
        Raises s t (passed :: runEvents c (s.chan c) (t.chan c))) ∧
      (s.tracker.current ≠ none → t.chan c = { s.chan c with selectionHeld := true } ∧ Raises s t [passed])) ∧
  ∀ (s : State) (hdr : Byte) (id : BitVec 16) (w : OpenSwath), s.powered = true → s.mgmt.mode ≠ .standby →
    s.tracker.current = some w → ChannelsLawful s ∨ (∀ c, (s.chan c).held = none) → s.mgmt.heldMode = none →
    ∃ (t : State) (checked : ChannelNo → Channel) (levels : ChannelNo → List Raised), exec (.swathClose hdr id) s = .next t ∧
      (∀ c,
        let cleared : Channel := { s.chan c with switched := false }
        ((s.chan c).held = none → checked c = cleared ∧ levels c = []) ∧
        ∀ lim, (s.chan c).held = some lim →
          ChecksRun c lim s t (checked c) (s.chan c).feed (fun j => (s.slot j).state) { cleared with limits := lim, held := none }
            (levels c)) ∧
      (∀ c, (s.chan c).selectionHeld = false → t.chan c = checked c) ∧
      (∀ c, (s.chan c).selectionHeld = true → (t.chan c).selectionHeld = false ∧
        RunDecides (checked c) (fun j => (t.slot j).state) s.mgmt.mode (t.chan c)) ∧
      (ChannelsLawful s → HandsOver s t) ∧
      Raises s t (heardEvents s ++ closeEvents (if w.id = id.toNat then .closed else .mismatched id.toNat) w ++
        (List.finRange 8).flatMap levels ++
        (List.finRange 8).flatMap (fun c => if (s.chan c).selectionHeld then runEvents c (checked c) (t.chan c) else []))

/-! ## Transactions -/

/-- R81, R82, R84, R86, R120, R125: the oldest entry of a free RUNNING or DRAINING line becomes its transaction in flight, its request
frame is sent, and the place it leaves is given to the first owed mark; otherwise nothing starts. The nonces are the source's own, no
two alike (log 7). A usage write captures the slot's consumed amount and uses up the test write arm. -/
def Obligations.TransactionStart : Prop :=
  (∀ (s : State) (l : LineNo) (e : TxEntry) (rest : List TxEntry), s.powered = true →
    (s.line l).condition = .running ∨ (s.line l).condition = .draining → (s.line l).flight = none → (s.line l).queue = e :: rest →
    ∃ t fl, exec (.transactionStart l) s = .next t ∧ (t.line l).flight = some fl ∧ fl.entry = e ∧ fl.tryNo = 1 ∧
      fl.withdrawn = false ∧ fl.phase = .awaiting 20 ∧
      t.busOut = s.busOut ++ [{ line := l, bytes := busRequest e.byte0 fl.payload.bytes }] ∧
      (e.kind = .identify ∨ e.kind = .markExhausted → fl.payload = .plain) ∧
      (e.kind = .challenge →
        fl.payload = .nonce (Config.nonce (BitVec.ofNat 64 s.nonceNext)) ∧ t.nonceNext = s.nonceNext + 1) ∧
      (e.kind ≠ .challenge → t.nonceNext = s.nonceNext) ∧
      (∀ n, e.kind = .recordRead → e.record = some n → fl.payload = .index n) ∧
      ((∀ p k, (nth (s.line l).owed p).has k = false) → (t.line l).queue = rest) ∧
      PlacesGiven l rest (owedEntries l (s.line l)) (t.line l) ∧
      (t.line l).condition = (s.line l).condition ∧ (t.line l).counters = (s.line l).counters ∧
      (∀ m, m ≠ l → t.line m = s.line m) ∧ Keeps ([.nonce, .testArm, .lines, .busOut] ++ Foot.lane) s t) ∧
  (∀ (s : State) (l : LineNo), s.powered = true →
    (s.line l).condition = .held ∨ (s.line l).condition = .stopped ∨ (s.line l).flight ≠ none ∨ (s.line l).queue = [] →
    ∃ t, exec (.transactionStart l) s = .next t ∧ Keeps Foot.lane s t) ∧
  ∀ (s : State) (l : LineNo) (e : TxEntry) (rest : List TxEntry) (id : Identity) (k : KeyNo), s.powered = true →
    (s.line l).condition = .running ∨ (s.line l).condition = .draining → (s.line l).flight = none → (s.line l).queue = e :: rest →
    e.kind = .usageWrite → (s.slot e.slot).identity = some id → id.keyId = k.val →
    let next := if (s.slot e.slot).sequence = 2 ^ 32 - 1 then 0 else (s.slot e.slot).sequence + 1
    let code := Config.recordCode (nth s.keys.image k).secret id.serial next (s.slot e.slot).consumed
    ∃ t fl, exec (.transactionStart l) s = .next t ∧ (t.line l).flight = some fl ∧
      fl.payload = .usage (s.slot e.slot).consumed Config.partIdentity (if s.testArm = some e.slot then ~~~code else code) ∧
      t.testArm = if s.testArm = some e.slot then none else s.testArm

/-- R85, R86, R87: a request of origin OTHER, here the CHALLENGE of SLOT RECHALLENGE and the first RECORD READ of AUDIT START, joins the
tail of a queue with a free place, and sets its mark on a full one, where a mark already set stays as it is; the places that a removal
frees together are given to the marks of the line's other slots in R86's order until the places or the marks run out. -/
def Obligations.OwedMarks : Prop :=
  (∀ (s : State) (tag b : Byte) (rest : List Request) (i : SlotNo) (r : ReturnState),
    Serves s { tag, kind := 21#16, args := [b] } rest → b.toNat = i.val → s.mgmt.mode ≠ .standby → (s.slot i).state = r.state →
    let ln := s.line (lineOf i)
    ∃ t, exec .slotRechallenge s = .next t ∧ (∀ m, m ≠ lineOf i → t.line m = s.line m) ∧
      (ln.queue.length < 8 → t.line (lineOf i) =
        { ln with
          queue := ln.queue ++ [{ slot := i, kind := .challenge, requester := .slotController, origin := .other, record := none }] }) ∧
      (8 ≤ ln.queue.length → t.line (lineOf i) =
        { ln with owed := upd ln.owed (posOf i) { nth ln.owed (posOf i) with challenge := true } })) ∧
  (∀ (s : State) (tag b x y : Byte) (rest : List Request) (i : SlotNo) (m : AuditMode) (acc : Bool),
    Serves s { tag, kind := 25#16, args := [b, x, y] } rest → b.toNat = i.val → x.toNat = m.no → y.toNat = flagNo acc →
    s.mgmt.mode ≠ .standby → s.audit.state.active = false → (s.slot i).state.auditEligible = true →
    let ln := s.line (lineOf i)
    ∃ t, exec .auditStart s = .next t ∧ (∀ m, m ≠ lineOf i → t.line m = s.line m) ∧
      (ln.queue.length < 8 → t.line (lineOf i) =
        { ln with
          queue := ln.queue ++ [{ slot := i, kind := .recordRead, requester := .auditUnit, origin := .other, record := some 0 }] }) ∧
      (8 ≤ ln.queue.length → t.line (lineOf i) =
        { ln with
          owed := upd ln.owed (posOf i)
            { nth ln.owed (posOf i) with recordRead := some ((nth ln.owed (posOf i)).recordRead.getD 0) } })) ∧
  ∀ (s : State) (i : SlotNo), s.powered = true → (nth s.presence i).closed = true → (s.slot i).state ≠ .settling →
    (s.slot i).state ≠ .empty →
    let ln := s.line (lineOf i)
    ∃ t, exec (.contactOpen i) s = .next t ∧
      PlacesGiven (lineOf i) (ln.queue.filter (fun e => e.slot ≠ i)) ((owedEntries (lineOf i) ln).filter (fun e => e.slot ≠ i))
        (t.line (lineOf i)) ∧
      ∀ m, m ≠ lineOf i → t.line m = s.line m

/-- R96, R97, R102, R167: an IDENTIFY answer becomes the identity, and the first check that applies decides; a rejection raises
AUTH_REJECTED with its reason, and passing the checks raises nothing of its own. A key id above 7 is unknown (log 13, DESIGN CHOICE). An
answer with ink type 0, which R73 does not give a tag, becomes the identity like any other and may go on to its first challenge (log 19,
DESIGN CHOICE). That AUTH_REJECTED comes before the events of the other blocks is the model's order (log 9). -/
def Obligations.IdentifyAnswerIsChecked : Prop :=
  ∀ (s : State) (l : LineNo) (a : AnswerFrame) (fl : Flight) (p : List Byte), s.powered = true → Awaiting s l fl →
    fl.entry.kind = .identify → AnswersOk fl a p → (s.slot fl.entry.slot).state = .identifying →
    let i := fl.entry.slot
    let id : Identity :=
      { serial := part 0 6 p, ink := part 6 1 p, capacity := part 7 4 p, keyId := part 11 1 p, fillDate := part 12 2 p,
        writeCounter := part 15 4 p }
    let bad := id.capacity = 0
    let mark := part 14 1 p ≠ 0
    let ink := ∃ c, channelOf s i = some c ∧ (s.chan c).ink ≠ id.ink
    let deny := ∃ r ∈ s.deny, r.first ≤ id.serial ∧ id.serial ≤ r.last
    let unknown := 8 ≤ id.keyId ∨ ∃ k : KeyNo, id.keyId = k.val ∧ nth s.keys.image k = .empty
    let revoked := ∃ (k : KeyNo) (x : BitVec 128), id.keyId = k.val ∧ nth s.keys.image k = .revoked x
    let used := ∃ n e, s.history.find id.serial = some n ∧ s.history.entry n = some e ∧ e.state = .exhausted
    let rejects (t : State) (r : RejectReason) (no : Nat) : Prop :=
      (t.slot i).state = .rejected r ∧ RaisesThen s t [(.authRejected, .slot i, no)] changeKinds
    ∃ t, exec (.answerFrame l a) s = .next t ∧ EndedWell s t l ∧ (t.slot i).identity = some id ∧
      (bad → rejects t .badRecord 0) ∧
      (¬bad → mark → rejects t .exhausted 1) ∧
      (¬bad → ¬mark → ink → rejects t .inkType 2) ∧
      (¬bad → ¬mark → ¬ink → deny → rejects t .denied 3) ∧
      (¬bad → ¬mark → ¬ink → ¬deny → unknown → rejects t .keyUnknown 4) ∧
      (¬bad → ¬mark → ¬ink → ¬deny → revoked → rejects t .keyRevoked 5) ∧
      (¬bad → ¬mark → ¬ink → ¬deny → ¬unknown → ¬revoked → used → rejects t .exhausted 1) ∧
      (¬bad → ¬mark → ¬ink → ¬deny → ¬unknown → ¬revoked → ¬used →
        (t.slot i).state = .challenging .first ∧ isPending t i .challenge = true ∧ RaisesThen s t [] changeKinds) ∧
      OtherSlotsSame i s t ∧ Keeps (Foot.outcome ++ Foot.settle) s t

/-- R15, R98, R99, R100, R102, R130, R131, R137, R138: the answer to a first challenge. A rejection raises AUTH_REJECTED with its reason,
and for DUPLICATE then DUPLICATE_SERIAL with the other slot. A known amount and evidence come from the serial's entry, if there is one; if
there is none, one is created in the lowest free place, or in place of the entry that no slot holds and that was seen longest ago, with
HISTORY_EVICTED. A pass raises REFILL_SUSPECT for each member that is new to the slot, then AUTH_PASSED with the state reached before the
level check, then LEVEL_LOW and SLOT_DEPLETED by that check; a slot that the check makes DEPLETED while it is active nowhere is handed
over for retirement (R15). That HISTORY_EVICTED comes before the slot controller's events, and those before the events of the other
blocks, is the model's order (log 9). -/
def Obligations.FirstChallengeAnswer : Prop :=
  ∀ (s : State) (l : LineNo) (a : AnswerFrame) (fl : Flight) (p : List Byte) (nonce : BitVec 64) (id : Identity) (k : KeyNo),
    s.powered = true → Awaiting s l fl → fl.entry.kind = .challenge → fl.payload = .nonce nonce → AnswersOk fl a p →
    (s.slot fl.entry.slot).state = .challenging .first → (s.slot fl.entry.slot).identity = some id → id.keyId = k.val →
    let i := fl.entry.slot
    let q := part 8 4 p
    let c := part 12 4 p
    let held := (s.history.find id.serial).bind s.history.entry
    let codeOk := Config.challengeCode (nth s.keys.image k).secret id.serial nonce q c = BitVec.ofNat 64 (part 0 8 p)
    let used := ∃ e, held = some e ∧ e.state = .exhausted
    let claims (j : SlotNo) : Prop := j ≠ i ∧ (s.slot j).serial? = some id.serial ∧
      ((s.slot j).state.authenticated = true ∨ (s.slot j).state.rechallenging = true)
    let twice := ∃ j, claims j
    let consumed := min (max c ((held.map (·.known)).getD 0)) id.capacity
    let created : HistoryEntry :=
      { serial := id.serial, ink := id.ink, capacity := id.capacity, committed := c, sequence := q, known := consumed, state := .inUse,
        evidence := {}, lastSeen := s.mgmt.partTime }
    let handedBack (m : Evidence) : Prop := ∃ e, held = some e ∧ (e.evidence.has m = true ∨ e.finding q c = some m)
    let remaining := id.capacity - consumed
    let reached (t : State) : Nat := if (t.slot i).evidence = {} then SlotState.genuine.no else SlotState.suspect.no
    let levels : List Raised :=
      (if remaining ≤ (limitsOf s i).low ∧ (s.slot i).low = false then [(.levelLow, .slot i, remaining)] else []) ++
        (if remaining ≤ (limitsOf s i).reserve then [(.slotDepleted, .slot i, remaining)] else [])
    let passes (t : State) (first : List Raised) : Prop :=
      ∃ found : List Evidence, found.Nodup ∧ (∀ m, m ∈ found ↔ handedBack m ∧ (s.slot i).evidence.has m = false) ∧
        RaisesThen s t (first ++ found.map (fun m => (.refillSuspect, .slot i, m.no)) ++ (.authPassed, .slot i, reached t) :: levels)
          changeKinds
    let rejects (t : State) (r : RejectReason) (no : Nat) : Prop :=
      (t.slot i).state = .rejected r ∧ RaisesThen s t [(.authRejected, .slot i, no)] changeKinds
    ∃ t, exec (.answerFrame l a) s = .next t ∧ EndedWell s t l ∧
      (¬codeOk → rejects t .codeMismatch 6) ∧
      (codeOk → id.capacity < c → rejects t .badRecord 0) ∧
      (codeOk → c ≤ id.capacity → used → rejects t .exhausted 1) ∧
      (codeOk → c ≤ id.capacity → ¬used → twice → (t.slot i).state = .rejected .duplicate ∧
        ∃ j, claims j ∧ RaisesThen s t [(.authRejected, .slot i, 7), (.duplicateSerial, .slot i, j.val)] changeKinds) ∧
      (codeOk → c ≤ id.capacity → ¬used → ¬twice →
        (t.slot i).consumed = consumed ∧ (t.slot i).committed = c ∧ (t.slot i).sequence = q ∧
        (t.slot i).lastAuth = some s.mgmt.partTime ∧
        (∀ m, (t.slot i).evidence.has m = true ↔
          (s.slot i).evidence.has m = true ∨ handedBack m) ∧
        (t.slot i).state =
          (if remaining ≤ (limitsOf s i).reserve then .depleted
          else if (t.slot i).evidence = {} then .genuine else .suspect) ∧
        (c < consumed → isPending t i .usageWrite = true ∨ (t.slot i).owedCommit = true) ∧
        (∀ n e, s.history.find id.serial = some n → s.history.entry n = some e →
          passes t [] ∧ (∀ m, m ≠ n → t.history.entry m = s.history.entry m) ∧
          ∃ e', t.history.entry n = some e' ∧ e'.serial = e.serial ∧ e'.state = .inUse ∧ e'.ink = id.ink ∧
            e'.capacity = id.capacity ∧ e'.committed = c ∧ e'.sequence = q ∧ e'.known = max e.known consumed ∧
            e'.lastSeen = s.mgmt.partTime ∧
            ((s.slot i).evidence = {} → ∀ m, e'.evidence.has m = true ↔ e.evidence.has m = true ∨ e.finding q c = some m)) ∧
        (∀ n, s.history.find id.serial = none → s.history.entry n = none → (∀ m, m < n → s.history.entry m ≠ none) →
          passes t [] ∧ t.history.entry n = some created ∧ ∀ m, m ≠ n → t.history.entry m = s.history.entry m) ∧
        HandsOver s t ∧
        ∀ n e, s.history.find id.serial = none → (∀ m, s.history.entry m ≠ none) → s.history.entry n = some e →
          heldBeside s e.serial none = false →
          (∀ m e', m ≠ n → s.history.entry m = some e' → heldBeside s e'.serial none = false →
            e.lastSeen < e'.lastSeen ∨ (e.lastSeen = e'.lastSeen ∧ n < m)) →
          passes t [(.historyEvicted, .entry n, e.serial % 2 ^ 32)] ∧ t.history.entry n = some created ∧
            ∀ m, m ≠ n → t.history.entry m = s.history.entry m) ∧
      OtherSlotsSame i s t ∧ Keeps (Foot.outcome ++ Foot.settle) s t

/-- R15, R101, R102, R105, R167: the answer to a re-challenge or a wake challenge. A wrong code raises AUTH_REJECTED; a return raises AUTH_PASSED
with the challenge kind and the state returned to, after REFILL_SUSPECT where DIVERGED is new. A slot that returns to DEPLETED while it is
active nowhere is handed over for retirement (R15). That these events come before those of the other blocks is the model's order (log
9). -/
def Obligations.LaterChallengeAnswer : Prop :=
  ∀ (s : State) (l : LineNo) (a : AnswerFrame) (fl : Flight) (p : List Byte) (nonce : BitVec 64) (id : Identity) (k : KeyNo)
    (r : ReturnState) (kindNo : Nat),
    s.powered = true → Awaiting s l fl → fl.entry.kind = .challenge → fl.payload = .nonce nonce → AnswersOk fl a p →
    ((s.slot fl.entry.slot).state = .challenging (.rechallenge r) ∧ kindNo = 1) ∨
      ((s.slot fl.entry.slot).state = .challenging (.wake r) ∧ kindNo = 2) →
    (s.slot fl.entry.slot).identity = some id → id.keyId = k.val →
    let i := fl.entry.slot
    let codeOk := Config.challengeCode (nth s.keys.image k).secret id.serial nonce (part 8 4 p) (part 12 4 p) =
      BitVec.ofNat 64 (part 0 8 p)
    let same := part 8 4 p = (s.slot i).sequence ∧ part 12 4 p = (s.slot i).committed
    ∃ t, exec (.answerFrame l a) s = .next t ∧ EndedWell s t l ∧
      (¬codeOk → (t.slot i).state = .rejected .codeMismatch ∧ (t.slot i).lastAuth = (s.slot i).lastAuth ∧
        RaisesThen s t [(.authRejected, .slot i, 6)] changeKinds) ∧
      (codeOk → same → (t.slot i).state = r.state ∧ (t.slot i).lastAuth = some s.mgmt.partTime ∧
        (t.slot i).evidence = (s.slot i).evidence ∧
        RaisesThen s t [(.authPassed, .slot i, kindNo * 256 + r.state.no)] changeKinds) ∧
      (codeOk → ¬same → (t.slot i).state = (if r = .depleted then .depleted else .suspect) ∧
        (t.slot i).lastAuth = some s.mgmt.partTime ∧ (t.slot i).evidence = { (s.slot i).evidence with diverged := true } ∧
        RaisesThen s t
          ((if (s.slot i).evidence.diverged then [] else [(.refillSuspect, .slot i, 2)]) ++
            [(.authPassed, .slot i, kindNo * 256 + if r = .depleted then SlotState.depleted.no else SlotState.suspect.no)])
          changeKinds) ∧
      HandsOver s t ∧
      (t.slot i).consumed = (s.slot i).consumed ∧ (t.slot i).committed = (s.slot i).committed ∧
      (t.slot i).sequence = (s.slot i).sequence ∧ OtherSlotsSame i s t ∧ Keeps (Foot.outcome ++ Foot.settle) s t

/-- R103, R121, R122, R127, R130, R167: the answers to USAGE WRITE and MARK EXHAUSTED. A successful commit raises no event; a refused one raises
SLOT_FAULTED, REFILL_SUSPECT where DIVERGED is new, and COMMIT_FAILED, in R122's order, and the entry held learns the consumed amount and
the new member (R103, R130); a mark that ends a retirement raises SLOT_RETIRED.
That the events of the selection run and of an audit's end come right after SLOT_FAULTED, and after SLOT_RETIRED, is the model's order
(log 9). -/
def Obligations.CommitAnswers : Prop :=
  (∀ (s : State) (l : LineNo) (a : AnswerFrame) (fl : Flight) (p : List Byte) (captured : Nat) (w : BitVec 32) (code : BitVec 64),
    s.powered = true → Awaiting s l fl → fl.entry.kind = .usageWrite → fl.payload = .usage captured w code → AnswersOk fl a p →
    let i := fl.entry.slot
    ∃ t, exec (.answerFrame l a) s = .next t ∧ EndedWell s t l ∧ (t.slot i).committed = captured ∧
      (t.slot i).sequence = part 0 4 p ∧ (t.slot i).consumed = (s.slot i).consumed ∧ Raises s t [] ∧
      ((s.slot i).state ≠ .retiring .finalWrite → (t.slot i).state = (s.slot i).state) ∧
      ((s.slot i).state = .retiring .finalWrite → captured = (s.slot i).consumed → (s.slot i).owedCommit = false → lineOf i = l →
        (∀ e ∈ (s.line l).queue, ¬(e.slot = i ∧ e.kind = .usageWrite)) →
        (nth (s.line l).owed (posOf i)).usageWrite = false →
        (t.slot i).state = .retiring .marking ∧ isPending t i .markExhausted = true) ∧
      (∀ serial n e, (s.slot i).serial? = some serial → (s.slot i).lastAuth ≠ none → s.history.find serial = some n →
        s.history.entry n = some e →
        t.history.entry n = some
          { e with
            committed := captured, sequence := part 0 4 p, known := max e.known (s.slot i).consumed,
            state := if e.state = .exhausted then .exhausted else .inUse, lastSeen := s.mgmt.partTime }) ∧
      OtherSlotsSame i s t ∧ Keeps (Foot.outcome ++ Foot.settle) s t) ∧
  (∀ (s : State) (l : LineNo) (a : AnswerFrame) (fl : Flight), s.powered = true → Awaiting s l fl → fl.entry.kind = .usageWrite →
    a.checkOk = true → a.echo = fl.entry.byte0 → a.status = 2#8 → a.payload = [] →
    let i := fl.entry.slot
    ∃ t, exec (.answerFrame l a) s = .next t ∧ EndedWell s t l ∧ (t.slot i).state = .faulted .commitRefused ∧
      (t.slot i).evidence = { (s.slot i).evidence with diverged := true } ∧ (t.slot i).consumed = (s.slot i).consumed ∧
      (t.slot i).committed = (s.slot i).committed ∧ (t.slot i).sequence = (s.slot i).sequence ∧
      (∃ reported, (∀ e ∈ reported, e.1 ∈ changeKinds) ∧
        Raises s t ((.slotFaulted, .slot i, 1 * 256 + 3) :: reported ++
          (if (s.slot i).evidence.diverged then [] else [(.refillSuspect, .slot i, 2)]) ++ [(.commitFailed, .slot i, 0)])) ∧
      HeldEntryTakes s t i (fun e =>
        { e with
          known := max e.known (s.slot i).consumed,
          evidence := if (s.slot i).evidence.diverged then e.evidence else { e.evidence with diverged := true } }) ∧
      OtherSlotsSame i s t ∧ Keeps (Foot.outcome ++ Foot.settle) s t) ∧
  ∀ (s : State) (l : LineNo) (a : AnswerFrame) (fl : Flight), s.powered = true → Awaiting s l fl →
    fl.entry.kind = .markExhausted → AnswersOk fl a [] →
    let i := fl.entry.slot
    ∃ t, exec (.answerFrame l a) s = .next t ∧ EndedWell s t l ∧
      (t.slot i).state = (if (s.slot i).state = .retiring .marking then .exhausted else (s.slot i).state) ∧
      ((s.slot i).state = .retiring .marking → RaisesThen s t [(.slotRetired, .slot i, (s.slot i).consumed)] changeKinds) ∧
      ((s.slot i).state ≠ .retiring .marking → Raises s t []) ∧
      (t.slot i).consumed = (s.slot i).consumed ∧ (t.slot i).committed = (s.slot i).committed ∧ OtherSlotsSame i s t ∧
      Keeps (Foot.outcome ++ Foot.settle) s t

/-- R142, R143, R145, R146: the answer to the RECORD READ that an audit awaits, for an index below 7. A wrong code raises REFILL_SUSPECT where
RECORD_INTEGRITY is new. That the events of the selection run that this can cause come next, and AUDIT_PAUSED after them, is the model's
order (log 9). -/
def Obligations.AuditTakesRecords : Prop :=
  ∀ (s : State) (l : LineNo) (a : AnswerFrame) (fl : Flight) (n : RecNo) (m : RecNo) (pass : AuditPass) (id : Identity)
    (k : KeyNo),
    s.powered = true → Awaiting s l fl → fl.entry.kind = .recordRead → fl.payload = .index n → m.val = n.val + 1 →
    s.audit.slot = some fl.entry.slot → s.audit.state = .running ∨ s.audit.state = .stopping → s.audit.pass = some pass →
    pass.position = .index n → pass.awaited = some n → (s.slot fl.entry.slot).identity = some id → id.keyId = k.val →
    let i := fl.entry.slot
    let suspect : List Raised := if (s.slot i).evidence.recordIntegrity then [] else [(.refillSuspect, .slot i, 3)]
    let goesOn (t : State) (view : List (RecNo × Nat)) : Prop :=
      t.audit.state = s.audit.state ∧ isPending t i .recordRead = true ∧
      t.audit.pass = some { position := .index m, awaited := some m, view := view, writeEnded := pass.writeEnded }
    (∀ p, AnswersOk fl a p →
      let q := part 0 4 p
      let codeOk := Config.recordCode (nth s.keys.image k).secret id.serial q (part 4 4 p) = BitVec.ofNat 64 (part 12 8 p)
      ∃ t, exec (.answerFrame l a) s = .next t ∧ EndedWell s t l ∧
        (codeOk → goesOn t (pass.view ++ [(n, q)]) ∧ t.audit.failing = s.audit.failing ∧ Keeps (Foot.read ++ Foot.settle) s t) ∧
        (¬codeOk → t.audit.failing = insertIndex n s.audit.failing ∧
          t.audit.firstFailure = some (s.audit.firstFailure.getD
            { index := n, kind := .checkCode, pass := min (s.audit.passes + 1) 65535, time := s.mgmt.partTime }) ∧
          (t.slot i).auditFail = true ∧ (t.slot i).evidence = { (s.slot i).evidence with recordIntegrity := true } ∧
          ((s.slot i).evidence.recordIntegrity = false → (s.slot i).state = .genuine → (t.slot i).state = .suspect) ∧
          (s.audit.mode = .pause → s.audit.state = .running → t.audit.state = .paused ∧
            t.audit.pass = some { position := .index m, awaited := none, view := pass.view ++ [(n, q)], writeEnded := pass.writeEnded } ∧
            ∃ runs, (∀ e ∈ runs, e.1 ∈ runKinds) ∧
              Raises s t (suspect ++ runs ++
                [(.auditPaused, .slot i, 0 * 2 ^ 24 + n.val * 2 ^ 16 + min (s.audit.passes + 1) 65535)])) ∧
          (s.audit.mode ≠ .pause ∨ s.audit.state = .stopping → goesOn t (pass.view ++ [(n, q)]) ∧ RaisesThen s t suspect runKinds) ∧
          Keeps (Foot.outcome ++ Foot.settle) s t)) ∧
    (a.checkOk = true → a.echo = fl.entry.byte0 → a.status = 3#8 → a.payload = [] →
      ∃ t, exec (.answerFrame l a) s = .next t ∧ EndedWell s t l ∧ goesOn t pass.view ∧ Keeps (Foot.read ++ Foot.settle) s t)

/-- R142-R146, R153: the RECORD READ of index 7, answered with a record or NEVER WRITTEN, in every mode and state in which an audit reads.
A wrong record code pauses a RUNNING audit of mode PAUSE before the check; otherwise the sequence check is made, unless a write has
ended in the pass, the pass counts, and the audit goes on by its state and mode: it is DONE, or PAUSED before the next pass, or in its
next pass. The index `j` is the one that the sequence check finds, the first misplaced one of a view read in index order, or the ring
place of the committed sequence. A failure
raises REFILL_SUSPECT where RECORD_INTEGRITY is new. That the events of the selection run that this can cause come next, and AUDIT_PAUSED
or AUDIT_FINISHED last, is the model's order (log 9). -/
def Obligations.LastRecordEndsTheAudit : Prop :=
  ∀ (s : State) (l : LineNo) (a : AnswerFrame) (fl : Flight) (answer : Option (List Byte)) (pass : AuditPass) (id : Identity)
    (k : KeyNo) (j : RecNo),
    s.powered = true → Awaiting s l fl → fl.entry.kind = .recordRead → fl.payload = .index 7 →
    (match answer with
      | some p => AnswersOk fl a p
      | none => a.checkOk = true ∧ a.echo = fl.entry.byte0 ∧ a.status = 3#8 ∧ a.payload = []) →
    s.audit.slot = some fl.entry.slot → s.audit.state = .running ∨ s.audit.state = .stopping → s.audit.pass = some pass →
    pass.position = .index 7 → pass.awaited = some 7 → (s.slot fl.entry.slot).identity = some id → id.keyId = k.val →
    let i := fl.entry.slot
    let view := pass.view ++ (answer.map (fun p => (7, part 0 4 p))).toList
    let badCode : Prop := ∃ p, answer = some p ∧
      Config.recordCode (nth s.keys.image k).secret id.serial (part 0 4 p) (part 4 4 p) ≠ BitVec.ofNat 64 (part 12 8 p)
    let placed : Prop := ∀ r ∈ view, r.2 % 8 = r.1.val
    let committed := (s.slot i).sequence
    let badRing : Prop := pass.writeEnded = false ∧ ¬(placed ∧ (view.map (·.2)).foldl max 0 = committed)
    let pausing : Prop := s.audit.mode = .pause ∧ s.audit.state = .running
    let passNo := min (s.audit.passes + 1) 65535
    let isNew : Prop := (badCode ∨ badRing) ∧ (s.slot i).evidence.recordIntegrity = false
    let raised (t : State) (last : List Raised) : Prop :=
      ∃ runs, (∀ e ∈ runs, e.1 ∈ runKinds) ∧ (isNew → Raises s t ((.refillSuspect, .slot i, 3) :: runs ++ last)) ∧
        (¬isNew → Raises s t last)
    (placed → j.val = committed % 8) →
    (¬placed → ∃ before q after, view = before ++ (j, q) :: after ∧ q % 8 ≠ j.val ∧ ∀ r ∈ before, r.2 % 8 = r.1.val) →
    ∃ t failing, exec (.answerFrame l a) s = .next t ∧ EndedWell s t l ∧
      (badCode → failing = insertIndex 7 s.audit.failing) ∧ (¬badCode → failing = s.audit.failing) ∧
      (badCode ∨ badRing → (t.slot i).auditFail = true ∧
        (t.slot i).evidence = { (s.slot i).evidence with recordIntegrity := true } ∧
        ((s.slot i).evidence.recordIntegrity = false → (s.slot i).state = .genuine → (t.slot i).state = .suspect)) ∧
      (¬badCode → ¬badRing → (t.slot i).auditFail = (s.slot i).auditFail ∧ (t.slot i).evidence = (s.slot i).evidence) ∧
      (badCode → pausing → t.audit.state = .paused ∧ t.audit.passes = s.audit.passes ∧ t.audit.failing = failing ∧
        t.audit.pass = some { position := .check, awaited := none, view, writeEnded := pass.writeEnded } ∧
        raised t [(.auditPaused, .slot i, 0 * 2 ^ 24 + 7 * 2 ^ 16 + passNo)]) ∧
      (¬(badCode ∧ pausing) → t.audit.passes = passNo ∧
        (s.audit.state = .stopping ∨ s.audit.mode = .once → t.audit.state = .done ∧ t.audit.pass = none ∧
          (badRing → t.audit.failing = insertIndex j failing) ∧ (¬badRing → t.audit.failing = failing) ∧
          raised t [(.auditFinished, .slot i, t.audit.failing.length * 2 ^ 16 + passNo)]) ∧
        (badRing → pausing → t.audit.state = .paused ∧ t.audit.failing = insertIndex j failing ∧
          t.audit.pass = some { position := .nextPass, awaited := none, view, writeEnded := pass.writeEnded } ∧
          raised t [(.auditPaused, .slot i, 1 * 2 ^ 24 + j.val * 2 ^ 16 + passNo)]) ∧
        (s.audit.state = .running → s.audit.mode ≠ .once → ¬(badRing ∧ pausing) → t.audit.state = .running ∧
          t.audit.pass = some { position := .index 0, awaited := some 0, view := [], writeEnded := false } ∧
          isPending t i .recordRead = true ∧ raised t [] ∧
          (s.audit.accumulate = false → t.audit.failing = []) ∧
          (s.audit.accumulate = true → (badRing → t.audit.failing = insertIndex j failing) ∧
            (¬badRing → t.audit.failing = failing)))) ∧
      Keeps (Foot.outcome ++ Foot.settle) s t

/-- R150-R153: what aborts an audit (COMMIT_PRESSURE: see DebitChecks). The removal of the held slot ends it with SLOT_GONE; a
rejection, a fault or a retirement of the held slot with SLOT_STATE; entry to STANDBY with MODE, where no pressure test of a mode
trigger comes first. The abort reason is set, the pass is cleared, the other fields stand, the pending RECORD READ is withdrawn, and
AUDIT_FINISHED is raised. -/
def Obligations.AuditEndings : Prop :=
  let ended (s t : State) (i : SlotNo) (r : AbortReason) : Prop :=
    t.audit = { s.audit with state := .aborted r, pass := none } ∧
    (isPending t i .recordRead = true → ∃ fl, (t.line (lineOf i)).flight = some fl ∧ fl.withdrawn = true) ∧
    RaisesAmong s t [(.auditFinished, .slot i, (r.no + 1) * 2 ^ 24 + s.audit.failing.length * 2 ^ 16 + s.audit.passes)]
      [.slotRemoved, .slotFaulted, .authRejected, .commitFailed, .supplySwitch, .channelStarved, .channelFed, .modeChanged]
  (∀ (s : State) (i : SlotNo), s.powered = true → heldSlot s = some i → (nth s.presence i).closed = true →
    (s.slot i).state ≠ .settling → (s.slot i).state ≠ .empty →
    ∃ t, exec (.contactOpen i) s = .next t ∧ ended s t i .slotGone) ∧
  (∀ (s : State) (tag : Byte) (args : List Byte) (rest : List Request) (first last : Nat) (i : SlotNo) (id : Identity),
    Serves s { tag, kind := 16#16, args } rest → fields [6, 6] args = some [first, last] → s.mgmt.mode = .setup → first ≤ last →
    s.deny.length < 32 → heldSlot s = some i → (s.slot i).identity = some id → first ≤ id.serial → id.serial ≤ last →
    (s.slot i).state.isChallenging = true ∨ (s.slot i).state.authenticated = true →
    ∃ t, exec .denyAdd s = .next t ∧ ended s t i .slotState) ∧
  (∀ (s : State) (l : LineNo) (fl : Flight), s.powered = true → (s.line l).flight = some fl → fl.phase = .awaiting 0 →
    fl.withdrawn = false → 3 ≤ fl.tryNo → heldSlot s = some fl.entry.slot → (s.slot fl.entry.slot).state.present = true →
    lineOf fl.entry.slot = l →
    ∃ t, exec (.answerTimeout l) s = .next t ∧ ended s t fl.entry.slot .slotState) ∧
  (∀ (s : State) (i : SlotNo), s.powered = true → nth s.handover i = true → (s.slot i).state = .depleted →
    (∀ c, (s.chan c).active ≠ some i) → heldSlot s = some i →
    ∃ t, exec (.retirementHandover i) s = .next t ∧ ended s t i .slotState) ∧
  ∀ (s : State) (tag x y : Byte) (rest : List Request) (i : SlotNo), Serves s { tag, kind := 41#16, args := [x, y] } rest →
    x.toNat = Mode.standby.no → y.toNat < 2 → s.mgmt.mode ≠ .standby → ¬(s.mgmt.mode = .setup ∧ keyWriteBusy s = true) →
    s.tracker.current = none → heldSlot s = some i → (s.slot i).consumed - (s.slot i).committed ≤ pressureLimit s i →
    ∃ t, exec .modeSet s = .next t ∧ ended s t i .mode

/-- R82, R83, R87, R91, R103, R123, R130: a failed try is followed by a retry pause, after which the same request frame goes out again,
or, after the third, by a FAULTED slot with SLOT_FAULTED and, for a USAGE WRITE, COMMIT_FAILED, in either order (log 8), whose held entry
learns the consumed amount; a withdrawn transaction ends. That these come before the events of the selection run and of an audit's end is
the model's order (log 9). That an ANSWER_TIMEOUT or RETRY_PAUSE_END before its count has run out does nothing,
and that an answer after the 20 ms have run out is ignored, is the model's form of the times (log 14, DESIGN CHOICE). -/
def Obligations.FailedTries : Prop :=
  (∀ (s : State) (l : LineNo) (fl : Flight) (c : Instr), s.powered = true → (s.line l).flight = some fl →
    ((∃ a ms, c = .answerFrame l a ∧ fl.phase = .awaiting (ms + 1) ∧ (fl.entry.judge a = .wait ∨ fl.entry.judge a = .check)) ∨
      (c = .answerTimeout l ∧ fl.phase = .awaiting 0)) →
    ∃ t, exec c s = .next t ∧
      (c = .answerTimeout l → (t.line l).counters.timeouts = min ((s.line l).counters.timeouts + 1) (2 ^ 32 - 1)) ∧
      (∀ a, c = .answerFrame l a →
        (fl.entry.judge a = .wait → (t.line l).counters.waits = min ((s.line l).counters.waits + 1) (2 ^ 32 - 1)) ∧
        (fl.entry.judge a = .check → (t.line l).counters.checks = min ((s.line l).counters.checks + 1) (2 ^ 32 - 1))) ∧
      (fl.withdrawn = true → (t.line l).flight = none ∧ Keeps (Foot.owed ++ Foot.settle) s t) ∧
      (fl.withdrawn = false → fl.tryNo < 3 → (t.line l).flight = some { fl with phase := .pausing 10 } ∧
        Keeps (.lines :: Foot.settle) s t) ∧
      (fl.withdrawn = false → 3 ≤ fl.tryNo → (t.line l).flight = none ∧
        (t.line l).counters.failed = min ((s.line l).counters.failed + 1) (2 ^ 32 - 1) ∧
        ((s.slot fl.entry.slot).state.present = true → (t.slot fl.entry.slot).state = .faulted .noResponse ∧
          (t.slot fl.entry.slot).consumed = (s.slot fl.entry.slot).consumed ∧
          (t.slot fl.entry.slot).committed = (s.slot fl.entry.slot).committed ∧
          let faulted : Raised := (.slotFaulted, .slot fl.entry.slot, 0 * 256 + fl.entry.kind.wireNo)
          let failed : Raised := (.commitFailed, .slot fl.entry.slot, 1)
          (fl.entry.kind ≠ .usageWrite → RaisesThen s t [faulted] changeKinds) ∧
          (fl.entry.kind = .usageWrite → RaisesThen s t [faulted, failed] changeKinds ∨ RaisesThen s t [failed, faulted] changeKinds)) ∧
        ((s.slot fl.entry.slot).state.present = true → HeldEntryTakes s t fl.entry.slot (fun e =>
          { e with known := max e.known (s.slot fl.entry.slot).consumed })) ∧
        ((s.slot fl.entry.slot).state.present = false → Raises s t [] ∧ ∀ m, t.history.entry m = s.history.entry m) ∧
        OtherSlotsSame fl.entry.slot s t ∧ Keeps (Foot.outcome ++ Foot.settle) s t)) ∧
  (∀ (s : State) (l : LineNo) (fl : Flight) (ms : Nat), s.powered = true → (s.line l).flight = some fl →
    fl.phase = .awaiting (ms + 1) → ∃ t, exec (.answerTimeout l) s = .next t ∧ Keeps Foot.settle s t) ∧
  (∀ (s : State) (l : LineNo) (a : AnswerFrame), s.powered = true →
    (s.line l).flight = none ∨ (∃ fl, (s.line l).flight = some fl ∧ (fl.phase = .awaiting 0 ∨ ∃ ms, fl.phase = .pausing ms)) →
    ∃ t, exec (.answerFrame l a) s = .next t ∧ Keeps Foot.settle s t) ∧
  (∀ (s : State) (l : LineNo) (fl : Flight), s.powered = true → (s.line l).flight = some fl → fl.phase = .pausing 0 →
    ∃ t, exec (.retryPauseEnd l) s = .next t ∧
      t.line l = { s.line l with flight := some { fl with tryNo := fl.tryNo + 1, phase := .awaiting 20 } } ∧
      t.busOut = s.busOut ++ [{ line := l, bytes := busRequest fl.entry.byte0 fl.payload.bytes }] ∧
      (∀ m, m ≠ l → t.line m = s.line m) ∧ Keeps ([.lines, .busOut] ++ Foot.lane) s t) ∧
  ∀ (s : State) (l : LineNo), s.powered = true → (∀ fl, (s.line l).flight = some fl → fl.phase ≠ .pausing 0) →
    ∃ t, exec (.retryPauseEnd l) s = .next t ∧ Keeps Foot.lane s t

/-! ## Stores and clocks -/

/-- R88, R90, R107-R109, R130, R132, R134: at the end of the scan every IN_USE entry becomes REMOVED and every hold is lifted; at the end
of a write to the history cells the oldest pending one starts; a write to the key cells places the waiting response DONE. -/
def Obligations.ScanAndCellWriteEnds : Prop :=
  (∀ (s : State), s.powered = true → s.history.scanning = true →
    ∃ t, exec .scanEnd s = .next t ∧ t.history.scanning = false ∧
      (∀ n, s.history.entry n = none → t.history.entry n = none) ∧
      (∀ n e, s.history.entry n = some e →
        t.history.entry n =
          some (if e.state = .inUse then { e with state := .removed, lastSeen := s.mgmt.partTime } else e)) ∧
      (∀ l, t.line l =
        { s.line l with
          condition :=
            if (s.line l).condition = .held then (if s.mgmt.mode = .standby then .draining else .running)
            else (s.line l).condition }) ∧
      Keeps ([.historyScan, .lines] ++ Foot.history ++ Foot.settle) s t) ∧
  (∀ (s : State), s.powered = true → s.history.scanning = false → ∃ t, exec .scanEnd s = .next t ∧ Keeps Foot.settle s t) ∧
  (∀ (s : State) (w : HistoryWrite), s.powered = true → s.history.scanning = false → s.history.writing = some w →
    ∃ t, exec .historyWriteEnd s = .next t ∧ nth t.history.cells w.index = w.image ∧
      (∀ n, n ≠ w.index → nth t.history.cells n = nth s.history.cells n) ∧
      (∀ n rest, s.history.pending = n :: rest →
        t.history.writing = some { index := n, image := s.history.entry n } ∧ t.history.pending = rest) ∧
      (s.history.pending = [] → t.history.writing = none ∧ t.history.pending = []) ∧
      Keeps (.historyCells :: Foot.settle) s t) ∧
  ∀ (s : State) (w : KeyWrite), s.powered = true → s.keys.current = some w →
    ∃ t, exec .keyWriteEnd s = .next t ∧ nth t.keys.cells w.key = w.entry ∧ nth t.keys.image w.key = w.entry ∧
      (∀ k, k ≠ w.key → nth t.keys.cells k = nth s.keys.cells k ∧ nth t.keys.image k = nth s.keys.image k) ∧
      t.keys.current = s.keys.waiting.head? ∧ t.keys.waiting = s.keys.waiting.tail ∧
      t.mgmt.promised = s.mgmt.promised - 1 ∧ lastAnswer t w.tag w.kind .done [] ∧ Keeps (Foot.key ++ Foot.lane) s t

/-- R156, R157, R158, R160: a tick applies the pending action or counts, and moves on the next-due tick of every due entry; at a HALT,
and while HALTED, the tick count stands. A tick value past 2^48 - 1 is open (log 11). Before 10 ms have gone by nothing happens (log
14). -/
def Obligations.ScheduleTicks : Prop :=
  (∀ (s : State), s.powered = true → s.schedule.sinceTick < 10 →
    ∃ t, exec .scheduleTick s = .next t ∧ Keeps Foot.settle s t) ∧
  (∀ (s : State), s.powered = true → 10 ≤ s.schedule.sinceTick → s.schedule.action = .halt →
    ∃ t, exec .scheduleTick s = .next t ∧ t.schedule.running = false ∧ t.schedule.action = .none ∧
      t.schedule.tick = s.schedule.tick ∧ Keeps ([.scheduleState, .scheduleTick] ++ Foot.settle) s t) ∧
  (∀ (s : State), s.powered = true → 10 ≤ s.schedule.sinceTick → s.schedule.action = .none → s.schedule.running = false →
    ∃ t, exec .scheduleTick s = .next t ∧ t.schedule.tick = s.schedule.tick ∧
      t.schedule.sinceTick = s.schedule.sinceTick - 10 ∧ Keeps (.scheduleTick :: Foot.settle) s t) ∧
  (∀ (s : State), s.powered = true → 10 ≤ s.schedule.sinceTick → s.schedule.action = .run →
    ∃ t, exec .scheduleTick s = .next t ∧ t.schedule.running = true ∧ t.schedule.action = .none ∧ t.schedule.tick = 0 ∧
      (∀ n, (nth s.schedule.entries n).enabled = false → nth t.schedule.entries n = nth s.schedule.entries n) ∧
      (∀ n, (nth s.schedule.entries n).enabled = true → 0 < (nth s.schedule.entries n).offset →
        nth t.schedule.entries n = { nth s.schedule.entries n with nextDue := (nth s.schedule.entries n).offset }) ∧
      (∀ n, let e := nth s.schedule.entries n
        let e' := nth t.schedule.entries n
        e.enabled = true → e.offset = 0 → e.period < 2 ^ 48 →
          (e' = { e with nextDue := e.period } ∨ e' = { e with nextDue := e.period, missed := min (e.missed + 1) 255 })) ∧
      Keeps (Foot.tick ++ Foot.settle) s t) ∧
  ∀ (s : State), s.powered = true → 10 ≤ s.schedule.sinceTick → s.schedule.action = .none → s.schedule.running = true →
    s.schedule.tick + 1 < 2 ^ 48 →
    ∃ t, exec .scheduleTick s = .next t ∧ t.schedule.tick = s.schedule.tick + 1 ∧ t.schedule.running = true ∧
      (∀ n, let e := nth s.schedule.entries n
        let e' := nth t.schedule.entries n
        (e.enabled = false ∨ s.schedule.tick + 1 < e.nextDue → e' = e) ∧
        (e.enabled = true → e.nextDue ≤ s.schedule.tick + 1 → e.nextDue + e.period < 2 ^ 48 →
          e'.nextDue = e.nextDue + e.period ∧ e'.enabled = true ∧ e'.slot = e.slot ∧ e'.kind = e.kind ∧ e'.period = e.period ∧
          e'.offset = e.offset ∧ (e'.missed = e.missed ∨ e'.missed = min (e.missed + 1) 255))) ∧
      Keeps (Foot.tick ++ Foot.settle) s t

/-- R160-R164, R104, R117, R118, R141, R85: the work of a due entry, at a tick at which no other entry is due. It is skipped when its slot
is not eligible or its work is pending; a RECHALLENGE or COMMIT is placed with origin SCHEDULE on a line with 4 free places or more, a
COMMIT of a slot held by an audit sets the owed-commit flag, an AUDIT starts an audit of mode ONCE; what the line or a busy audit
refuses is a miss, counted and raised as SCHEDULE_MISS. -/
def Obligations.DueEntries : Prop :=
  ∀ (s : State) (n : SchedNo) (T due : Nat), OnlyDue s n T due →
    let e := nth s.schedule.entries n
    let i := e.slot
    let sl := s.slot i
    let ln := s.line (lineOf i)
    let missNo := min (e.missed + 1) 255
    let joins (t : State) (k : TxKind) (who : Requester) (o : Origin) (r : Option RecNo) : Prop :=
      t.line (lineOf i) = { ln with queue := ln.queue ++ [{ slot := i, kind := k, requester := who, origin := o, record := r }] } ∧
      ∀ m, m ≠ lineOf i → t.line m = s.line m
    ∃ t, exec .scheduleTick s = .next t ∧ t.schedule.running = true ∧ t.schedule.tick = T ∧ OtherSlotsSame i s t ∧
      let placed : Prop := nth t.schedule.entries n = { e with nextDue := due + e.period }
      let quietly : Prop := placed ∧ Keeps ([.scheduleTable, .scheduleState, .scheduleTick] ++ Foot.settle) s t
      let missed (cause : Nat) : Prop :=
        nth t.schedule.entries n = { e with nextDue := due + e.period, missed := missNo } ∧
        Raises s t [(.scheduleMiss, .entry n, e.kind.no * 2 ^ 24 + i.val * 2 ^ 16 + cause * 256 + missNo)] ∧
        Keeps ([.scheduleTable, .scheduleState, .scheduleTick] ++ Foot.raise ++ Foot.settle) s t
      (sl.state.inService = false → quietly) ∧
      (e.kind = .rechallenge → ∀ r, sl.state = ReturnState.state r →
        (isPending s i .challenge = true → quietly) ∧
        (isPending s i .challenge = false → ln.queue.length ≤ 4 → placed ∧ (t.slot i).state = .challenging (.rechallenge r) ∧
          joins t .challenge .slotController .schedule none) ∧
        (isPending s i .challenge = false → 4 < ln.queue.length → missed 0)) ∧
      (e.kind = .commit → sl.state.inService = true →
        (sl.consumed ≤ sl.committed ∨ isPending s i .usageWrite = true → quietly) ∧
        (sl.committed < sl.consumed → isPending s i .usageWrite = false →
          (heldSlot s = some i → sl.consumed - sl.committed ≤ pressureLimit s i → placed ∧ (t.slot i).owedCommit = true ∧
            t.lines = s.lines ∧ t.audit = s.audit) ∧
          (heldSlot s = some i → pressureLimit s i < sl.consumed - sl.committed → placed ∧
            t.audit = { s.audit with state := .aborted .commitPressure, pass := none } ∧ isPending t i .usageWrite = true) ∧
          (heldSlot s ≠ some i → ln.queue.length ≤ 4 → placed ∧ joins t .usageWrite .commitUnit .schedule none ∧
            (t.slot i).owedCommit = sl.owedCommit) ∧
          (heldSlot s ≠ some i → 4 < ln.queue.length → missed 0))) ∧
      (e.kind = .audit → sl.state.inService = true →
        (s.audit.state.active = true → missed 1) ∧
        (s.audit.state.active = false → 4 < ln.queue.length → missed 0) ∧
        (s.audit.state.active = false → ln.queue.length ≤ 4 → placed ∧ joins t .recordRead .auditUnit .other (some 0) ∧
          t.audit =
            { slot := some i, mode := .once, accumulate := false, state := .running, passes := 0, failing := [], firstFailure := none,
              pass := some { position := .index 0, awaited := some 0, view := [], writeEnded := false } }))

/-- R39, R76, R82, R156, R180, R181, R185: one millisecond of the part's running clock, for everything that counts on it. -/
def Obligations.PartTimeRuns : Prop :=
  ∀ (s : State), s.powered = true → ∃ t, exec .partTimeIncrement s = .next t ∧
    t.mgmt.partTime = (s.mgmt.partTime + 1) % 2 ^ 48 ∧
    t.tracker.current = s.tracker.current.map (fun w => { w with elapsed := min (w.elapsed + 1) (2 ^ 32 - 1) }) ∧
    t.schedule.sinceTick = s.schedule.sinceTick + 1 ∧ t.schedule.tick = s.schedule.tick ∧
    (∀ i, nth t.presence i = { nth s.presence i with timer := (nth s.presence i).timer.map (fun n => n - 1) }) ∧
    (∀ l, (t.line l).queue = (s.line l).queue ∧ (t.line l).owed = (s.line l).owed ∧ (t.line l).counters = (s.line l).counters ∧
      (t.line l).condition = (s.line l).condition ∧
      ((s.line l).flight = none → (t.line l).flight = none) ∧
      (∀ fl n, (s.line l).flight = some fl → fl.phase = .awaiting n →
        (t.line l).flight = some { fl with phase := .awaiting (n - 1) }) ∧
      ∀ fl n, (s.line l).flight = some fl → fl.phase = .pausing n →
        (t.line l).flight = some { fl with phase := .pausing (n - 1) }) ∧
    (∀ i, let d := nth s.indicators i
      nth t.indicators i =
        { d with
          timer := d.timer.map (fun n => n - 1),
          blinkMs := if d.fields.drive ≠ .solid ∧ d.active = true then d.blinkMs + 1 else d.blinkMs }) ∧
    Keeps ([.partTime, .openSwath, .scheduleTick, .presence, .lines, .indicators] ++ Foot.lane) s t

/-! ## Reads -/

/-- R194, R70: the state of the part as a whole; the request itself has left the queue and holds a reservation. That a two-valued state
is numbered in its definition's order (tracker IDLE 0, OPEN 1, scan SCANNING 0, DONE 1, schedule HALTED 0, RUNNING 1) is log 12's reading
of R70 (DEDUCED). -/
def Obligations.StatusReadAnswersTheWhole : Prop :=
  ∀ (s : State) (tag : Byte) (rest : List Request), Serves s { tag, kind := 42#16, args := [] } rest →
    exec .statusRead s = .next (finish .statusRead (answered tag 42#16 rest .done
      (be 1 s.mgmt.mode.no ++
        (match s.mgmt.heldMode with
          | none => be 1 0
          | some m => be 1 1 ++ be 1 m.no) ++
        be 1 s.link.state.no ++ be 1 (flagNo s.tracker.current.isSome) ++ be 4 Config.partIdentity.toNat ++ be 1 s.link.bridge ++
        be 1 (flagNo (!s.history.scanning)) ++ be 2 s.events.queue.length ++ be 1 (flagNo s.events.overrun) ++
        be 1 s.audit.state.no ++ be 1 (flagNo s.schedule.running) ++ be 1 s.schedule.action.no ++ be 6 s.mgmt.partTime ++
        be 1 rest.length ++ be 1 (7 - s.link.responses - (s.mgmt.promised + 1))) s))

/-- R20, R23, R27, R54, R92, R110, R113, R135, R154, R165, R173, R184: the other reads answer DONE from the state as it stands and change
nothing; HISTORY READ is NOT_READY during the scan. The results are spelled out byte by byte, `flag` being R70's flag, `optional` its optional
value and `evidence` its set of evidence members. The encodings are log 12's reading of R70 (DEDUCED): the numbers of two-valued states,
no count byte before a table of fixed size, a count byte before the records, places and entries of a window, one presence byte for the
open swath record, and none for the fields of a place. -/
def Obligations.OtherReadsChangeNothing : Prop :=
  let flag (b : Bool) : List Byte := if b then [1#8] else [0#8]
  let optional (x : Option (List Byte)) : List Byte :=
    match x with
    | none => be 1 0
    | some bytes => be 1 1 ++ bytes
  let evidence (e : EvidenceSet) : List Byte :=
    be 1 (flagNo e.rollback + 2 * flagNo e.foreignLow + 4 * flagNo e.diverged + 8 * flagNo e.recordIntegrity)
  (∀ s : State, Carries .headMapRead 5#16 [] .done
    ((List.finRange 32).flatMap (fun h =>
      [match (nth s.meter.headMap h).channel with
        | some c => BitVec.ofNat 8 c.val
        | none => 0xFF#8,
       BitVec.ofNat 8 (nth s.meter.headMap h).set.val, if nth s.meter.unmappedReported h then 1#8 else 0#8])) s s) ∧
  (∀ s : State, Carries .keyStatus 15#16 [] .done
    ((List.finRange 8).flatMap (fun k =>
      [match nth s.keys.image k with
        | .empty => 0#8
        | .loaded _ => 1#8
        | .revoked _ => 2#8]) ++ [if s.keys.current.isSome then 1#8 else 0#8]) s s) ∧
  (∀ (s : State) (v : SetNo),
    let copy (t : VolumeTable) : List Byte := (List.finRange 4).flatMap (fun w =>
      be 2 (nth (nth t v) w).small ++ be 2 (nth (nth t v) w).medium ++ be 2 (nth (nth t v) w).large)
    Carries .volumeRead 7#16 [BitVec.ofNat 8 v.val] .done
      (copy s.meter.active ++ copy s.meter.staged ++ be 1 (flagNo s.meter.stagedPending)) s s) ∧
  (∀ (s : State) (b : Byte), 8 ≤ b.toNat → Carries .volumeRead 7#16 [b] .badArgument [] s s) ∧
  (∀ (s : State) (c : ChannelNo),
    let ch := s.chan c
    let k := s.counter c
    Carries .channelRead 3#16 [BitVec.ofNat 8 c.val] .done
      (be 1 ch.ink ++ (be 1 ch.feed.length ++ ch.feed.flatMap (fun i => be 1 i.val)) ++ be 1 ch.policy.no ++
        (be 4 ch.limits.low ++ be 4 ch.limits.reserve ++ be 4 ch.limits.step) ++
        (match ch.held with
          | none => be 1 0
          | some x => be 1 1 ++ (be 4 x.low ++ be 4 x.reserve ++ be 4 x.step)) ++
        be 1 ch.state.no ++
        (match ch.active with
          | none => be 1 0
          | some i => be 1 1 ++ be 1 i.val) ++
        be 1 ch.gate.no ++ be 1 (flagNo ch.selectionHeld) ++ be 1 (flagNo ch.switched) ++
        (be 8 k.metered ++ be 8 k.debited ++ be 8 k.overdraw ++ be 8 k.unattributed ++ be 2 k.remainder)) s s) ∧
  (∀ (s : State) (l : LineNo),
    let ln := s.line l
    let entry (e : TxEntry) : List Byte :=
      be 1 e.slot.val ++ be 1 e.kind.no ++ be 1 e.origin.no ++ optional (e.record.map (fun n => be 1 n.val))
    Carries .lineRead 12#16 [BitVec.ofNat 8 l.val] .done
      (be 1 ln.condition.no ++ be 1 (8 - ln.queue.length) ++ (be 1 ln.queue.length ++ ln.queue.flatMap entry) ++
        optional (ln.flight.map (fun fl => entry fl.entry ++ be 1 fl.tryNo ++ flag fl.withdrawn)) ++
        (List.finRange 4).flatMap (fun p =>
          let o := nth ln.owed p
          be 1 (flagNo o.identify + 2 * flagNo o.challenge + 4 * flagNo o.usageWrite + 8 * flagNo o.markExhausted +
              16 * flagNo o.recordRead.isSome) ++
            optional (o.recordRead.map (fun n => be 1 n.val))) ++
        be 4 ln.counters.completed ++ be 4 ln.counters.failed ++ be 4 ln.counters.timeouts ++ be 4 ln.counters.waits ++
        be 4 ln.counters.checks) s s) ∧
  (∀ (s : State) (i : SlotNo),
    let sl := s.slot i
    let p := nth s.presence i
    Carries .slotRead 19#16 [BitVec.ofNat 8 i.val] .done
      (be 1 i.val ++ be 1 sl.state.no ++
        (match sl.state with
          | .rejected r => be 1 1 ++ be 1 r.no
          | _ => be 1 0) ++
        (match sl.state with
          | .faulted r => be 1 1 ++ be 1 r.no
          | _ => be 1 0) ++
        optional (sl.identity.map (fun id =>
          be 6 id.serial ++ be 1 id.ink ++ be 4 id.capacity ++ be 1 id.keyId ++ be 2 id.fillDate ++ be 4 id.writeCounter)) ++
        (match sl.state with
          | .challenging .first => be 1 1 ++ be 1 0
          | .challenging (.rechallenge _) => be 1 1 ++ be 1 1
          | .challenging (.wake _) => be 1 1 ++ be 1 2
          | _ => be 1 0) ++
        (match sl.state with
          | .challenging (.rechallenge r) | .challenging (.wake r) => be 1 1 ++ be 1 r.no
          | _ => be 1 0) ++
        be 4 sl.consumed ++ be 4 sl.committed ++ be 4 sl.sequence ++ evidence sl.evidence ++ flag sl.low ++ flag sl.auditFail ++
        flag sl.owedCommit ++ optional (sl.lastAuth.map (be 6)) ++ flag p.closed ++ optional (p.timer.map (be 1)) ++ flag p.wakeMark) s s) ∧
  (∀ s : State,
    let a := s.audit
    Carries .auditRead 28#16 [] .done
      (be 1 a.state.no ++ optional (a.slot.map (fun i => be 1 i.val)) ++ be 1 a.mode.no ++ flag a.accumulate ++ be 2 a.passes ++
        optional (a.pass.map (fun p =>
          be 1 (match p.position with
            | .index n => n.val
            | .check => 8
            | .nextPass => 9))) ++
        optional ((a.pass.bind (·.awaited)).map (fun n => be 1 n.val)) ++
        be 1 (match a.pass with
          | some p => p.view.length
          | none => 0) ++
        (be 1 a.failing.length ++ a.failing.flatMap (fun n => be 1 n.val)) ++
        optional (a.firstFailure.map (fun f => be 1 f.index.val ++ be 1 f.kind.no ++ be 2 f.pass ++ be 6 f.time)) ++
        (match a.state with
          | .aborted r => be 1 1 ++ be 1 r.no
          | _ => be 1 0)) s s) ∧
  (∀ s : State, Carries .routeRead 36#16 [] .done
    ((List.finRange 28).flatMap (fun k =>
      be 1 (flagNo (nth s.events.routes k).queue) ++ be 1 (flagNo (nth s.events.routes k).notify))) s s) ∧
  (∀ s : State,
    Carries .indicatorRead 40#16 [] .done ((List.finRange 8).flatMap (fun i =>
      let d := nth s.indicators i
      d.fields.bytes ++ flag d.result ++ be 1 (if d.active then 0 else 1) ++ optional (d.timer.map (be 2)) ++ flag d.hold ++
        be 1 (if d.lineHigh then 0 else 1))) s s) ∧
  (∀ (s : State) (first count : Byte), first.toNat ≤ 15 → 1 ≤ count.toNat → count.toNat ≤ 16 →
    Carries .swathRead 11#16 [first, count] .done
      (be 1 (if s.tracker.current = none then 0 else 1) ++
        optional (s.tracker.current.map (fun w =>
          be 2 w.id ++ be 6 w.openTime ++ be 4 w.elapsed ++ be 2 w.limit ++
            (List.finRange 8).flatMap (fun c => be 8 (nth w.volumes c)) ++ be 4 w.unchanged ++ be 4 w.blanked ++ be 4 w.discarded)) ++
        be 2 s.tracker.limit ++ optional (s.tracker.heldLimit.map (be 2)) ++ be 1 s.tracker.ring.length ++ be 4 s.tracker.closes ++
        (be 1 (min count.toNat (s.tracker.ring.length - first.toNat)) ++
          ((s.tracker.ring.drop first.toNat).take count.toNat).flatMap (fun w =>
            be 2 w.id ++ be 1 w.outcome.no ++
              (match w.outcome with
                | .mismatched n => be 1 1 ++ be 2 n
                | _ => be 1 0) ++
              be 6 w.openTime ++ be 4 w.duration ++ (List.finRange 8).flatMap (fun c => be 8 (nth w.volumes c)) ++
              be 4 w.unchanged ++ be 4 w.blanked ++ be 4 w.discarded))) s s) ∧
  (∀ (s : State) (first count : Byte), first.toNat ≤ 63 → 1 ≤ count.toNat → count.toNat ≤ 16 →
    (s.history.scanning = true → Carries .historyRead 23#16 [first, count] .notReady [] s s) ∧
    (s.history.scanning = false → Carries .historyRead 23#16 [first, count] .done
      (be 1 ((List.finRange 64).countP (fun n => (s.history.entry n).isSome)) ++ be 1 s.history.pending.length ++
        (be 1 (min count.toNat (64 - first.toNat)) ++ (((List.finRange 64).drop first.toNat).take count.toNat).flatMap (fun n =>
          be 1 n.val ++ flag (s.history.entry n).isNone ++
            flag (s.history.pending.contains n || s.history.writing.any (fun w => w.index = n)) ++
            (match s.history.entry n with
              | none => []
              | some e =>
                be 6 e.serial ++ be 1 e.ink ++ be 4 e.capacity ++ be 4 e.committed ++ be 4 e.sequence ++ be 4 e.known ++
                  be 1 e.state.no ++ evidence e.evidence ++ be 6 e.lastSeen)))) s s)) ∧
  (∀ (s : State) (first count : Byte), first.toNat ≤ 63 → 1 ≤ count.toNat → count.toNat ≤ 64 →
    Carries .scheduleRead 32#16 [first, count] .done
      (be 1 (flagNo s.schedule.running) ++ be 1 s.schedule.action.no ++ be 6 s.schedule.tick ++
        (be 1 (min count.toNat (64 - first.toNat)) ++ (((List.finRange 64).drop first.toNat).take count.toNat).flatMap (fun n =>
          let e := nth s.schedule.entries n
          be 1 n.val ++ flag e.enabled ++ be 1 e.slot.val ++ be 1 e.kind.no ++ be 2 e.period ++ be 2 e.offset ++ be 6 e.nextDue ++
            be 1 e.missed))) s s) ∧
  (∀ (s : State) (b x : Byte),
    (x.toNat = 0 ∨ 16 < x.toNat → Carries .swathRead 11#16 [b, x] .badArgument [] s s ∧
      Carries .historyRead 23#16 [b, x] .badArgument [] s s) ∧
    (x.toNat = 0 ∨ 64 < x.toNat → Carries .scheduleRead 32#16 [b, x] .badArgument [] s s)) ∧
  ∀ (s : State) (b x : Byte), (8 ≤ b.toNat → Carries .channelRead 3#16 [b] .badArgument [] s s) ∧
    (4 ≤ b.toNat → Carries .lineRead 12#16 [b] .badArgument [] s s) ∧
    (16 ≤ b.toNat → Carries .slotRead 19#16 [b] .badArgument [] s s ∧ Carries .swathRead 11#16 [b, x] .badArgument [] s s) ∧
    (64 ≤ b.toNat →
      Carries .historyRead 23#16 [b, x] .badArgument [] s s ∧ Carries .scheduleRead 32#16 [b, x] .badArgument [] s s)

/-! ## Serving requests -/

/-- R192: a serving command does nothing unless a request of its kind heads the queue, 2 places are available and no reset is
pending (log 1, DESIGN CHOICE: the commands carry no operands); an unknown kind is answered UNKNOWN. -/
def Obligations.RequestsAreServedFromTheHead : Prop :=
  (∀ (s : State) (c : Instr) (code : Nat), s.powered = true → requestCode c = some code →
    (∀ r rest, s.mgmt.queue = r :: rest →
      r.kind.toNat ≠ code ∨ 7 < s.link.responses + s.mgmt.promised + 2 ∨ s.mgmt.resetPending = true) →
    ∃ t, exec c s = .next t ∧ Keeps Foot.settle s t) ∧
  (∀ (s : State) (kind : BitVec 16) (args : List Byte), kind.toNat = 0 ∨ 44 < kind.toNat →
    Carries .unknownRequest kind args .unknown [] s s) ∧
  ∀ (s : State) (r : Request) (rest : List Request), s.powered = true → s.mgmt.queue = r :: rest → 1 ≤ r.kind.toNat →
    r.kind.toNat ≤ 44 → ∃ t, exec .unknownRequest s = .next t ∧ Keeps Foot.lane s t

/-- R192: argument bytes that do not fill a request's fields are answered BAD_ARGUMENT. R16, R22, R108, R109, R111, R112, R125, R136,
and R18, R25, R38, R53, R114, R115, R141, R157: what is taken in SETUP only, and what is not taken in STANDBY, is answered
WRONG_MODE there. Values out of their sets are judged by each request's own rule and order (log 12). -/
def Obligations.RefusedRequestsChangeNothing : Prop :=
  (∀ (s : State) (args : List Byte) (c : Instr) (kind : BitVec 16) (n : Nat),
    (c, kind, n) ∈
      [(Instr.channelLimitsWrite, 2#16, 13), (.channelRead, 3, 1), (.headMapRead, 5, 0), (.volumeWrite, 6, 8), (.volumeRead, 7, 1),
       (.channelCountersClear, 8, 1), (.channelDebit, 9, 5), (.swathLimitWrite, 10, 2), (.swathRead, 11, 2), (.lineRead, 12, 1),
       (.keyLoad, 13, 17), (.keyRevoke, 14, 1), (.keyStatus, 15, 0), (.denyAdd, 16, 12), (.denyRemove, 17, 1), (.denyRead, 18, 0),
       (.slotRead, 19, 1), (.slotRetry, 20, 1), (.slotRechallenge, 21, 1), (.testWriteArm, 22, 1), (.historyRead, 23, 2),
       (.historyErase, 24, 0), (.auditStart, 25, 3), (.auditContinue, 26, 0), (.auditStop, 27, 0), (.auditRead, 28, 0),
       (.scheduleRun, 29, 0), (.scheduleHalt, 30, 0), (.scheduleWrite, 31, 8), (.scheduleRead, 32, 2), (.eventRead, 33, 1),
       (.eventInsert, 34, 6), (.routeWrite, 35, 3), (.routeRead, 36, 0), (.conditionRead, 37, 1), (.indicatorRelease, 39, 1),
       (.indicatorRead, 40, 0), (.modeSet, 41, 2), (.statusRead, 42, 0), (.timeSet, 43, 6), (.partReset, 44, 0)] →
    args.length ≠ n → Carries c kind args .badArgument [] s s) ∧
  (∀ (s : State) (args : List Byte),
    (channelWriteArgs args = none → Carries .channelWrite 1#16 args .badArgument [] s s) ∧
    (headMapArgs args = none → Carries .headMapWrite 4#16 args .badArgument [] s s) ∧
    (indicatorArgs args = none → Carries .indicatorWrite 38#16 args .badArgument [] s s)) ∧
  (∀ (s : State) (args : List Byte) (c : Instr) (kind : BitVec 16) (n : Nat),
    (c, kind, n) ∈
      [(Instr.keyLoad, 13#16, 17), (.keyRevoke, 14, 1), (.denyAdd, 16, 12), (.denyRemove, 17, 1), (.testWriteArm, 22, 1),
       (.historyErase, 24, 0)] →
    args.length = n → s.mgmt.mode ≠ .setup → Carries c kind args .wrongMode [] s s) ∧
  (∀ (s : State) (args : List Byte), s.mgmt.mode ≠ .setup →
    (channelWriteArgs args ≠ none → Carries .channelWrite 1#16 args .wrongMode [] s s) ∧
    (headMapArgs args ≠ none → Carries .headMapWrite 4#16 args .wrongMode [] s s)) ∧
  ∀ (s : State) (args : List Byte) (c : Instr) (kind : BitVec 16) (n : Nat),
    (c, kind, n) ∈
      [(Instr.channelLimitsWrite, 2#16, 13), (.volumeWrite, 6, 8), (.channelDebit, 9, 5), (.swathLimitWrite, 10, 2),
       (.slotRetry, 20, 1), (.slotRechallenge, 21, 1), (.auditStart, 25, 3), (.scheduleRun, 29, 0)] →
    args.length = n → s.mgmt.mode = .standby → Carries c kind args .wrongMode [] s s

/-! ## Requests on channels and meters -/

/-- R16-R19: an accepted CHANNEL WRITE sets the channel, rejects cartridges of another ink, checks the level of those newly placed, and
lets the selection decide, which an open swath holds back; arguments out of range are BAD_ARGUMENT; new limits are
held while a swath is open, and otherwise checked at once against the channel's slots. The run is made from the record as step 1 of R17
leaves it, with the active slot cleared if it has left the feed list (R5), and a DEPLETED slot that is left is handed over (R15). The
events are those of R17's steps in their order; among the slots of a step they come in feed-list order, and an AUDIT_FINISHED that a
rejection causes comes where the model puts it (log 9). New limits that apply at once make the level checks of R19, of slots CHALLENGING
with a return state as of GENUINE and SUSPECT ones, in feed-list order (log 9): LOW in one direction, DEPLETED, their events, a selection
run with its events for each slot whose state changes, and the hand-over of R15. That is stated for states with the channel laws, which
every step keeps (StepsKeepTheChannelLaws). -/
def Obligations.ChannelAndLimitsWrite : Prop :=
  (∀ (s : State) (tag : Byte) (args : List Byte) (rest : List Request) (c : ChannelNo) (ink : Nat) (feed : List SlotNo)
      (p : Policy),
    Serves s { tag, kind := 1#16, args } rest → channelWriteArgs args = some (c.val, ink, feed.map (·.val), p.no) →
    s.mgmt.mode = .setup → feed.length ≤ 3 → feed.Nodup → (ink = 0 → feed = []) →
    (∀ d i, d ≠ c → i ∈ feed → i ∉ (s.chan d).feed) →
    let was := s.chan c
    let leaves : Bool := was.active.any (fun a => a ∉ feed)
    let written : Channel := { was with ink, feed, policy := p }
    let cleared : Channel :=
      if leaves then { written with active := none, state := if ink = 0 then .unused else .starved, gate := .closed, switched := true }
      else written
    let starved : List Raised := if leaves ∧ ink ≠ 0 then [(.channelStarved, .channel c, slotOr255 was.active)] else []
    let rejected (i : SlotNo) : Bool := (s.slot i).identity.any (fun id => id.ink ≠ ink) &&
      ((s.slot i).state.isChallenging || (s.slot i).state.inService)
    let rejections : List Raised := (feed.filter rejected).map (fun i => (.authRejected, .slot i, 2))
    let checked (i : SlotNo) : Bool := (s.slot i).identity.any (fun id => id.ink = ink) && !(was.feed.contains i) &&
      ((s.slot i).state = .genuine || (s.slot i).state = .suspect)
    let levels : List Raised := (feed.filter checked).flatMap (fun i =>
      let rem := (s.slot i).remaining
      (if rem ≤ was.limits.low ∧ (s.slot i).low = false then [(.levelLow, .slot i, rem)] else []) ++
        (if rem ≤ was.limits.reserve then [(.slotDepleted, .slot i, rem)] else []))
    ∃ t all, exec .channelWrite s = .next t ∧ (t.chan c).setup = (ink, feed, p) ∧
      (∀ i, i ∉ feed → t.slot i = s.slot i) ∧
      (∀ i id, i ∈ feed → (s.slot i).identity = some id → id.ink ≠ ink →
        (s.slot i).state.isChallenging = true ∨ (s.slot i).state.inService = true →
        (t.slot i).state = .rejected .inkType) ∧
      (∀ i id, i ∈ feed → i ∉ (s.chan c).feed → (s.slot i).identity = some id → id.ink = ink →
        (s.slot i).state = .genuine ∨ (s.slot i).state = .suspect →
        let rem := id.capacity - (s.slot i).consumed
        (t.slot i).low = ((s.slot i).low || decide (rem ≤ (s.chan c).limits.low)) ∧
        (t.slot i).state = (if rem ≤ (s.chan c).limits.reserve then .depleted else (s.slot i).state)) ∧
      (∀ i, i ∈ feed → i ∈ (s.chan c).feed → (∀ id, (s.slot i).identity = some id → id.ink = ink) → t.slot i = s.slot i) ∧
      (∀ d, d ≠ c → t.chan d = s.chan d) ∧
      (s.tracker.current = none → RunDecides cleared (fun i => (t.slot i).state) .setup (t.chan c) ∧
        all.filter (fun e => e.1 ≠ .auditFinished) = starved ++ rejections ++ levels ++ runEvents c cleared (t.chan c)) ∧
      (s.tracker.current ≠ none → t.chan c = { cleared with selectionHeld := true } ∧
        all.filter (fun e => e.1 ≠ .auditFinished) = starved ++ rejections ++ levels) ∧
      Raises s t all ∧ ((∀ i ∈ feed, heldSlot s ≠ some i) → ∀ e ∈ all, e.1 ≠ .auditFinished) ∧ HandsOver s t ∧
      lastAnswer t tag 1#16 .done [] ∧ Keeps (.channelSetup :: Foot.reject ++ Foot.checked ++ Foot.request) s t) ∧
  (∀ (s : State) (args : List Byte) (c : ChannelNo) (ink : Nat) (feed : List SlotNo) (p : Policy),
    channelWriteArgs args = some (c.val, ink, feed.map (·.val), p.no) → s.mgmt.mode = .setup →
    3 < feed.length ∨ ¬feed.Nodup ∨ (ink = 0 ∧ feed ≠ []) ∨ (∃ d i, d ≠ c ∧ i ∈ feed ∧ i ∈ (s.chan d).feed) →
    Carries .channelWrite 1#16 args .badArgument [] s s) ∧
  (∀ (s : State) (args : List Byte) (c ink p : Nat) (ns : List Nat), channelWriteArgs args = some (c, ink, ns, p) →
    s.mgmt.mode = .setup → 8 ≤ c ∨ (∃ n ∈ ns, 16 ≤ n) ∨ 2 ≤ p → Carries .channelWrite 1#16 args .badArgument [] s s) ∧
  (∀ (s : State) (args : List Byte) (c low reserve step : Nat), fields [1, 4, 4, 4] args = some [c, low, reserve, step] →
    s.mgmt.mode ≠ .standby → 8 ≤ c ∨ 100000000 < reserve ∨ (1 ≤ step ∧ step < 1000) ∨ 100000000 < step →
    Carries .channelLimitsWrite 2#16 args .badArgument [] s s) ∧
  ∀ (s : State) (tag : Byte) (args : List Byte) (rest : List Request) (c : ChannelNo) (low reserve step : Nat),
    Serves s { tag, kind := 2#16, args } rest → fields [1, 4, 4, 4] args = some [c.val, low, reserve, step] →
    s.mgmt.mode ≠ .standby → reserve ≤ 100000000 → step = 0 ∨ (1000 ≤ step ∧ step ≤ 100000000) →
    ∃ t, exec .channelLimitsWrite s = .next t ∧
      (s.tracker.current ≠ none → (t.chan c).held = some { low, reserve, step } ∧ (t.chan c).limits = (s.chan c).limits ∧
        Keeps (.channelLimits :: Foot.request) s t) ∧
      (s.tracker.current = none → (t.chan c).held = none ∧ (t.chan c).limits = { low, reserve, step } ∧
        ∀ i id, channelOf s i = some c → (s.slot i).identity = some id →
          (s.slot i).state = .genuine ∨ (s.slot i).state = .suspect →
          (id.capacity - (s.slot i).consumed ≤ low → (t.slot i).low = true) ∧
          (t.slot i).state = (if id.capacity - (s.slot i).consumed ≤ reserve then .depleted else (s.slot i).state)) ∧
      (s.tracker.current = none → ChannelsLawful s →
        (∀ i ∈ (s.chan c).feed, LimitsMet { low, reserve, step } (s.slot i) (t.slot i)) ∧
        (∀ i, t.slot i = { s.slot i with low := (t.slot i).low, state := (t.slot i).state }) ∧
        (∀ i, i ∉ (s.chan c).feed → t.slot i = s.slot i) ∧ (∀ d, d ≠ c → t.chan d = s.chan d) ∧ HandsOver s t ∧
        ∃ all, ChecksRun c { low, reserve, step } s t (t.chan c) (s.chan c).feed (fun j => (s.slot j).state)
          { s.chan c with limits := { low, reserve, step }, held := none } all ∧ Raises s t all) ∧
      (∀ d, d ≠ c → (t.chan d).limits = (s.chan d).limits ∧ (t.chan d).held = (s.chan d).held) ∧
      lastAnswer t tag 2#16 .done [] ∧ Keeps (.channelLimits :: Foot.checked ++ Foot.request) s t

/-- R37, R38: CHANNEL COUNTERS CLEAR, and CHANNEL DEBIT with its placing; a remainder is at most 9,999 (R36). What follows the debit is
DebitChecks. -/
def Obligations.CounterRequests : Prop :=
  (∀ (s : State) (tag b : Byte) (rest : List Request), Serves s { tag, kind := 8#16, args := [b] } rest →
    b.toNat < 8 ∨ b = 0xFF#8 →
    ∃ t, exec .channelCountersClear s = .next t ∧
      (∀ c : ChannelNo, b = 0xFF#8 ∨ b.toNat = c.val →
        t.counter c = { metered := 0, debited := 0, overdraw := 0, unattributed := 0, remainder := 0 } ∧
        nth t.meter.overdrawReported c = false ∧ nth t.meter.unattributedReported c = false) ∧
      (∀ c : ChannelNo, ¬(b = 0xFF#8 ∨ b.toNat = c.val) →
        t.counter c = s.counter c ∧ nth t.meter.overdrawReported c = nth s.meter.overdrawReported c ∧
        nth t.meter.unattributedReported c = nth s.meter.unattributedReported c) ∧
      lastAnswer t tag 8#16 .done [] ∧ Keeps ([.counters, .debitFlags] ++ Foot.request) s t) ∧
  (∀ (s : State) (tag : Byte) (args : List Byte) (rest : List Request) (c : ChannelNo) (amount : Nat),
    Serves s { tag, kind := 9#16, args } rest → fields [1, 4] args = some [c.val, amount] → s.mgmt.mode ≠ .standby →
    1 ≤ amount → amount ≤ 1000000 → (s.chan c).state ≠ .unused → (s.counter c).metered + amount * 10000 < 2 ^ 64 →
    (s.counter c).remainder ≤ 9999 →
    let k := s.counter c
    let p := placing s c amount
    ∃ t, exec .channelDebit s = .next t ∧
      t.counter c =
        { metered := k.metered + amount * 10000, debited := k.debited + p.taken, overdraw := k.overdraw + p.overdraw,
          unattributed := k.unattributed + p.unattributed, remainder := k.remainder } ∧
      (∀ d, d ≠ c → t.counter d = s.counter d) ∧
      (∀ i, (t.slot i).consumed = (s.slot i).consumed + if (s.chan c).active = some i then p.taken else 0) ∧
      lastAnswer t tag 9#16 .done (be 4 p.taken ++ be 4 p.overdraw ++ be 4 p.unattributed) ∧
      Keeps (Foot.debit ++ Foot.request) s t) ∧
  (∀ (s : State) (b : Byte), 8 ≤ b.toNat → b ≠ 0xFF#8 → Carries .channelCountersClear 8#16 [b] .badArgument [] s s) ∧
  ∀ (s : State) (args : List Byte) (c amount : Nat), fields [1, 4] args = some [c, amount] → s.mgmt.mode ≠ .standby →
    (8 ≤ c ∨ amount = 0 ∨ 1000000 < amount → Carries .channelDebit 9#16 args .badArgument [] s s) ∧
    ∀ ch : ChannelNo, c = ch.val → 1 ≤ amount → amount ≤ 1000000 →
      ((s.chan ch).state = .unused → Carries .channelDebit 9#16 args .badState [] s s) ∧
      ((s.chan ch).state ≠ .unused → 2 ^ 64 ≤ (s.counter ch).metered + amount * 10000 →
        Carries .channelDebit 9#16 args .full [] s s)

/-- R22, R25, R53, R125: the head map, the volume table, the swath time limit and the test write arm are written as given; a staged
value waits for the close of an open swath; arguments out of range are BAD_ARGUMENT. That an optional limit in the results is a presence
byte and the value is R70. -/
def Obligations.TableWrites : Prop :=
  (∀ (s : State) (tag : Byte) (args bytes : List Byte) (rest : List Request) (first n : Nat) (es : List MapEntry),
    Serves s { tag, kind := 4#16, args } rest → headMapArgs args = some (first, n, bytes) → asMappings bytes = some es →
    s.mgmt.mode = .setup → 1 ≤ n → first + n ≤ 32 →
    ∃ t, exec .headMapWrite s = .next t ∧
      (∀ (h : HeadNo) (e : MapEntry), first ≤ h.val → es[h.val - first]? = some e →
        nth t.meter.headMap h = e ∧ nth t.meter.unmappedReported h = false) ∧
      (∀ h : HeadNo, h.val < first ∨ first + n ≤ h.val →
        nth t.meter.headMap h = nth s.meter.headMap h ∧ nth t.meter.unmappedReported h = nth s.meter.unmappedReported h) ∧
      lastAnswer t tag 4#16 .done [] ∧ Keeps ([.headMap, .unmappedFlags] ++ Foot.request) s t) ∧
  (∀ (s : State) (args bytes : List Byte) (first n : Nat), headMapArgs args = some (first, n, bytes) → s.mgmt.mode = .setup →
    (32 ≤ first ∨ n = 0 ∨ 32 < first + n ∨
      ∃ (j : Nat) (c v : Byte), bytes[2 * j]? = some c ∧ bytes[2 * j + 1]? = some v ∧
        ((8 ≤ c.toNat ∧ c ≠ 0xFF#8) ∨ 8 ≤ v.toNat)) →
    Carries .headMapWrite 4#16 args .badArgument [] s s) ∧
  (∀ (s : State) (args : List Byte) (v w small medium large : Nat), fields [1, 1, 2, 2, 2] args = some [v, w, small, medium, large] →
    s.mgmt.mode ≠ .standby → 8 ≤ v ∨ 4 ≤ w ∨ 4095 < small ∨ 4095 < medium ∨ 4095 < large →
    Carries .volumeWrite 6#16 args .badArgument [] s s) ∧
  (∀ (s : State) (tag : Byte) (args : List Byte) (rest : List Request) (v : SetNo) (w : WaveNo) (small medium large : Nat),
    Serves s { tag, kind := 6#16, args } rest → fields [1, 1, 2, 2, 2] args = some [v.val, w.val, small, medium, large] →
    s.mgmt.mode ≠ .standby → small ≤ 4095 → medium ≤ 4095 → large ≤ 4095 →
    ∃ t, exec .volumeWrite s = .next t ∧ nth (nth t.meter.staged v) w = { small, medium, large } ∧
      (∀ v' w', ¬(v' = v ∧ w' = w) → nth (nth t.meter.staged v') w' = nth (nth s.meter.staged v') w') ∧
      (s.tracker.current = none → t.meter.active = t.meter.staged ∧ t.meter.stagedPending = s.meter.stagedPending) ∧
      (s.tracker.current ≠ none → t.meter.active = s.meter.active ∧ t.meter.stagedPending = true) ∧
      lastAnswer t tag 6#16 .done [if t.meter.stagedPending then 1#8 else 0#8] ∧ Keeps (.volumeTable :: Foot.request) s t) ∧
  (∀ (s : State) (args : List Byte) (n : Nat), fields [2] args = some [n] → s.mgmt.mode ≠ .standby →
    n = 0 ∨ (10 ≤ n ∧ n ≤ 60000) →
    (s.tracker.current = none → Carries .swathLimitWrite 10#16 args .done
      (be 2 n ++ match s.tracker.heldLimit with
        | none => be 1 0
        | some held => be 1 1 ++ be 2 held) s
      { s with tracker := { s.tracker with limit := n } }) ∧
    (s.tracker.current ≠ none → Carries .swathLimitWrite 10#16 args .done (be 2 s.tracker.limit ++ (be 1 1 ++ be 2 n)) s
      { s with tracker := { s.tracker with heldLimit := some n } })) ∧
  (∀ (s : State) (args : List Byte) (n : Nat), fields [2] args = some [n] → s.mgmt.mode ≠ .standby →
    (1 ≤ n ∧ n ≤ 9) ∨ 60000 < n → Carries .swathLimitWrite 10#16 args .badArgument [] s s) ∧
  (∀ (s : State) (i : SlotNo), s.mgmt.mode = .setup →
    let former : List Byte :=
      match s.testArm with
      | none => be 1 0
      | some j => be 1 1 ++ be 1 j.val
    Carries .testWriteArm 22#16 [BitVec.ofNat 8 i.val] .done former s { s with testArm := some i } ∧
    Carries .testWriteArm 22#16 [0xFF#8] .done former s { s with testArm := none }) ∧
  ∀ (s : State) (b : Byte), s.mgmt.mode = .setup → 16 ≤ b.toNat → b ≠ 0xFF#8 →
    Carries .testWriteArm 22#16 [b] .badArgument [] s s

/-! ## Requests on keys and the deny list -/

/-- R108, R109: KEY LOAD, whose response waits for the write; KEY REVOKE of a LOADED entry acts on the image and the slots at once, with
AUTH_REJECTED of each in ascending slot order, and answers when its write completes. -/
def Obligations.KeyRequests : Prop :=
  (∀ (s : State) (tag : Byte) (args : List Byte) (rest : List Request) (k : KeyNo) (secret : BitVec 128),
    Serves s { tag, kind := 13#16, args } rest → keyLoadArgs args = some (k.val, secret) → s.mgmt.mode = .setup →
    loadPending s.keys k = false →
    nth s.keys.image k = .empty ∨ (∃ old, nth s.keys.image k = .revoked old ∧ old ≠ secret) →
    let w : KeyWrite := { key := k, entry := .loaded secret, tag, kind := 13#16 }
    ∃ t, exec .keyLoad s = .next t ∧ t.keys.image = s.keys.image ∧ t.keys.cells = s.keys.cells ∧ Promised s t rest ∧
      t.keys.current.toList ++ t.keys.waiting = s.keys.current.toList ++ s.keys.waiting ++ [w] ∧ t.keys.current ≠ none ∧
      Keeps (.keyWrites :: Foot.request) s t) ∧
  (∀ (s : State) (args : List Byte) (k : Nat) (secret : BitVec 128), keyLoadArgs args = some (k, secret) → s.mgmt.mode = .setup →
    (8 ≤ k → Carries .keyLoad 13#16 args .badArgument [] s s) ∧
    ∀ n : KeyNo, k = n.val →
      (loadPending s.keys n = true ∨ (∃ x, nth s.keys.image n = .loaded x) → Carries .keyLoad 13#16 args .badState [] s s) ∧
      (loadPending s.keys n = false → nth s.keys.image n = .revoked secret → Carries .keyLoad 13#16 args .badArgument [] s s)) ∧
  (∀ (s : State) (tag b : Byte) (rest : List Request) (k : KeyNo) (secret : BitVec 128),
    Serves s { tag, kind := 14#16, args := [b] } rest → b.toNat = k.val → s.mgmt.mode = .setup →
    nth s.keys.image k = .loaded secret →
    let w : KeyWrite := { key := k, entry := .revoked secret, tag, kind := 14#16 }
    ∃ t, exec .keyRevoke s = .next t ∧ t.keys.image = upd s.keys.image k (.revoked secret) ∧ t.keys.cells = s.keys.cells ∧
      t.keys.current.toList ++ t.keys.waiting = s.keys.current.toList ++ s.keys.waiting ++ [w] ∧
      t.mgmt.queue = rest ∧ t.mgmt.promised = s.mgmt.promised + 1 ∧
      (∀ i id, (s.slot i).identity = some id → id.keyId = k.val →
        (s.slot i).state.isChallenging = true ∨ (s.slot i).state.authenticated = true →
        (t.slot i).state = .rejected .keyRevoked) ∧
      (∀ i, (∀ id, (s.slot i).identity = some id → id.keyId ≠ k.val) ∨
        ((s.slot i).state.isChallenging = false ∧ (s.slot i).state.authenticated = false) → t.slot i = s.slot i) ∧
      RejectsInOrder s t (fun id => id.keyId = k.val) 5 ∧
      Keeps ([.keyImage, .keyWrites] ++ Foot.reject ++ Foot.changed ++ Foot.request) s t) ∧
  ∀ (s : State) (b : Byte), s.mgmt.mode = .setup → (8 ≤ b.toNat → Carries .keyRevoke 14#16 [b] .badArgument [] s s) ∧
    ∀ k : KeyNo, b.toNat = k.val →
      (nth s.keys.image k = .empty → Carries .keyRevoke 14#16 [b] .badState [] s s) ∧
      ((∃ x, nth s.keys.image k = .revoked x) → Carries .keyRevoke 14#16 [b] .done [] s s)

/-- R111, R112: DENY ADD appends the range and rejects every slot it names, with AUTH_REJECTED of each in ascending slot order; DENY REMOVE
and DENY READ. That DENY READ sends one count
byte, the list's, for "the number of ranges and the ranges" is log 12's reading of R70 (DEDUCED). -/
def Obligations.DenyListRequests : Prop :=
  (∀ (s : State) (tag : Byte) (args : List Byte) (rest : List Request) (first last : Nat),
    Serves s { tag, kind := 16#16, args } rest → fields [6, 6] args = some [first, last] → s.mgmt.mode = .setup → first ≤ last →
    s.deny.length < 32 →
    ∃ t, exec .denyAdd s = .next t ∧ t.deny = s.deny ++ [{ first := first, last := last }] ∧
      OutFrame.response { tag, kind := 16#16, status := .done, results := be 1 (s.deny.length + 1) } ∈ ownFrames t ∧
      (∀ i id, (s.slot i).identity = some id → first ≤ id.serial → id.serial ≤ last →
        (s.slot i).state.isChallenging = true ∨ (s.slot i).state.authenticated = true →
        (t.slot i).state = .rejected .denied) ∧
      (∀ i, (∀ id, (s.slot i).identity = some id → id.serial < first ∨ last < id.serial) ∨
        ((s.slot i).state.isChallenging = false ∧ (s.slot i).state.authenticated = false) → t.slot i = s.slot i) ∧
      RejectsInOrder s t (fun id => first ≤ id.serial ∧ id.serial ≤ last) 3 ∧
      Keeps (.denyList :: Foot.reject ++ Foot.changed ++ Foot.request) s t) ∧
  (∀ (s : State) (args : List Byte) (first last : Nat), fields [6, 6] args = some [first, last] → s.mgmt.mode = .setup →
    (last < first → Carries .denyAdd 16#16 args .badArgument [] s s) ∧
    (first ≤ last → 32 ≤ s.deny.length → Carries .denyAdd 16#16 args .full [] s s)) ∧
  (∀ (s : State) (n : Byte), s.mgmt.mode ≠ .setup → Carries .denyRemove 17#16 [n] .wrongMode [] s s) ∧
  (∀ (s : State) (n : Byte), s.mgmt.mode = .setup → s.deny.length ≤ n.toNat → Carries .denyRemove 17#16 [n] .notFound [] s s) ∧
  (∀ (s : State) (n : Byte), s.mgmt.mode = .setup → n.toNat < s.deny.length →
    Carries .denyRemove 17#16 [n] .done (be 1 (s.deny.length - 1)) s
      { s with deny := s.deny.take n.toNat ++ s.deny.drop (n.toNat + 1) }) ∧
  ∀ s : State, Carries .denyRead 18#16 [] .done
    (be 1 s.deny.length ++ s.deny.flatMap (fun r => be 6 r.first ++ be 6 r.last)) s s

/-! ## Requests on slots, history, audit and schedule -/

/-- R95, R104, R114, R115, R130, R136: SLOT RETRY updates the entry held as a removal does, clears the record and identifies again; SLOT
RECHALLENGE challenges a slot in service; HISTORY ERASE frees every place whose entry is not IN_USE and that no slot holds. -/
def Obligations.SlotAndHistoryRequests : Prop :=
  (∀ (s : State) (tag b : Byte) (rest : List Request) (i : SlotNo), Serves s { tag, kind := 20#16, args := [b] } rest →
    b.toNat = i.val → s.mgmt.mode ≠ .standby → (∃ r, (s.slot i).state = .rejected r) ∨ (∃ r, (s.slot i).state = .faulted r) →
    ∃ t, exec .slotRetry s = .next t ∧
      t.slot i =
        { state := .identifying, identity := none, consumed := 0, committed := 0, sequence := 0, evidence := {}, low := false,
          auditFail := false, owedCommit := false, lastAuth := none } ∧
      isPending t i .identify = true ∧ HeldEntryTakes s t i (removalUpdate s i) ∧ OtherSlotsSame i s t ∧
      lastAnswer t tag 20#16 .done [] ∧
      Keeps (Foot.slot ++ Foot.history ++ Foot.changed ++ Foot.request) s t) ∧
  (∀ (s : State) (tag b : Byte) (rest : List Request) (i : SlotNo) (r : ReturnState),
    Serves s { tag, kind := 21#16, args := [b] } rest → b.toNat = i.val → s.mgmt.mode ≠ .standby →
    (s.slot i).state = r.state →
    ∃ t, exec .slotRechallenge s = .next t ∧ (t.slot i).state = .challenging (.rechallenge r) ∧
      isPending t i .challenge = true ∧ OtherSlotsSame i s t ∧ lastAnswer t tag 21#16 .accepted [] ∧
      Keeps (.slotState :: Foot.changed ++ Foot.request) s t) ∧
  (∀ (s : State) (b : Byte), s.mgmt.mode ≠ .standby →
    (16 ≤ b.toNat → Carries .slotRetry 20#16 [b] .badArgument [] s s ∧ Carries .slotRechallenge 21#16 [b] .badArgument [] s s) ∧
    ∀ i : SlotNo, b.toNat = i.val →
      ((∀ r, (s.slot i).state ≠ .rejected r) → (∀ r, (s.slot i).state ≠ .faulted r) →
        Carries .slotRetry 20#16 [b] .badState [] s s) ∧
      ((∀ r : ReturnState, (s.slot i).state ≠ r.state) → Carries .slotRechallenge 21#16 [b] .badState [] s s)) ∧
  (∀ (s : State) (tag : Byte) (rest : List Request), Serves s { tag, kind := 24#16, args := [] } rest → s.mgmt.mode = .setup →
    s.history.scanning = false →
    ∃ t, exec .historyErase s = .next t ∧
      (∀ n e, s.history.entry n = some e →
        t.history.entry n =
          if e.state ≠ .inUse ∧ ¬(∃ j, (s.slot j).lastAuth ≠ none ∧ (s.slot j).serial? = some e.serial) then none else some e) ∧
      (∀ n, s.history.entry n = none → t.history.entry n = none) ∧
      lastAnswer t tag 24#16 .done (be 1 ((List.finRange 64).countP (fun n =>
        (s.history.entry n).isSome && (t.history.entry n).isNone))) ∧ Keeps (Foot.history ++ Foot.request) s t) ∧
  ∀ s : State, s.mgmt.mode = .setup → s.history.scanning = true → Carries .historyErase 24#16 [] .notReady [] s s

/-- R141, R142, R144-R148, R153: AUDIT START, AUDIT CONTINUE and AUDIT STOP by the audit's state; AUDIT START with an argument out of
range is BAD_ARGUMENT. AUDIT CONTINUE resumes by the pass position: it places the read of an index, makes the sequence check at CHECK,
whose failing index is `j`, or begins the next pass at NEXT_PASS. A PAUSED audit is of mode PAUSE (R145); what a state of another mode
would do is stated too. That the events of a selection run come after REFILL_SUSPECT, and AUDIT_PAUSED or AUDIT_FINISHED last, is the
model's order (log 9). -/
def Obligations.AuditRequests : Prop :=
  (∀ (s : State) (tag b x y : Byte) (rest : List Request) (i : SlotNo) (m : AuditMode) (acc : Bool),
    Serves s { tag, kind := 25#16, args := [b, x, y] } rest → b.toNat = i.val → x.toNat = m.no → y.toNat = flagNo acc →
    s.mgmt.mode ≠ .standby → s.audit.state.active = false → (s.slot i).state.auditEligible = true →
    ∃ t, exec .auditStart s = .next t ∧
      t.audit =
        { slot := some i, mode := m, accumulate := acc, state := .running, passes := 0, failing := [], firstFailure := none,
          pass := some { position := .index 0, awaited := some 0, view := [], writeEnded := false } } ∧
      isPending t i .recordRead = true ∧ lastAnswer t tag 25#16 .accepted [] ∧ Keeps (Foot.read ++ Foot.request) s t) ∧
  (∀ (s : State) (b x y : Byte), s.mgmt.mode ≠ .standby → 16 ≤ b.toNat ∨ 3 ≤ x.toNat ∨ 2 ≤ y.toNat →
    Carries .auditStart 25#16 [b, x, y] .badArgument [] s s) ∧
  (∀ (s : State) (b x y : Byte) (i : SlotNo) (m : AuditMode) (acc : Bool), b.toNat = i.val → x.toNat = m.no →
    y.toNat = flagNo acc → s.mgmt.mode ≠ .standby →
    (s.audit.state.active = true → Carries .auditStart 25#16 [b, x, y] .busy [] s s) ∧
    (s.audit.state.active = false → (s.slot i).state.auditEligible = false →
      Carries .auditStart 25#16 [b, x, y] .badState [] s s)) ∧
  (∀ (s : State) (tag : Byte) (rest : List Request) (i : SlotNo) (p : AuditPass) (n : RecNo),
    Serves s { tag, kind := 26#16, args := [] } rest → s.audit.state = .paused → s.audit.slot = some i →
    s.audit.pass = some p → p.position = .index n → p.awaited = none →
    ∃ t, exec .auditContinue s = .next t ∧
      t.audit =
        { s.audit with state := .running, failing := [], firstFailure := none, pass := some { p with awaited := some n } } ∧
      isPending t i .recordRead = true ∧ lastAnswer t tag 26#16 .done [] ∧ Keeps (Foot.read ++ Foot.request) s t) ∧
  (∀ (s : State) (tag : Byte) (rest : List Request) (i : SlotNo) (p : AuditPass),
    Serves s { tag, kind := 26#16, args := [] } rest → s.audit.state = .paused → s.audit.slot = some i →
    s.audit.pass = some p → p.position = .nextPass →
    ∃ t, exec .auditContinue s = .next t ∧
      t.audit =
        { s.audit with
          state := .running, failing := [], firstFailure := none,
          pass := some { position := .index 0, awaited := some 0, view := [], writeEnded := false } } ∧
      isPending t i .recordRead = true ∧ lastAnswer t tag 26#16 .done [] ∧ Keeps (Foot.read ++ Foot.request) s t) ∧
  (∀ (s : State) (tag : Byte) (rest : List Request) (i : SlotNo) (p : AuditPass) (j : RecNo),
    Serves s { tag, kind := 26#16, args := [] } rest → s.audit.state = .paused → s.audit.slot = some i →
    s.audit.pass = some p → p.position = .check →
    let placed : Prop := ∀ r ∈ p.view, r.2 % 8 = r.1.val
    let committed := (s.slot i).sequence
    let fails : Prop := p.writeEnded = false ∧ ¬(placed ∧ (p.view.map (·.2)).foldl max 0 = committed)
    let passNo := min (s.audit.passes + 1) 65535
    let suspect : List Raised := if (s.slot i).evidence.recordIntegrity then [] else [(.refillSuspect, .slot i, 3)]
    let failure : FirstFailure := { index := j, kind := .sequence, pass := passNo, time := s.mgmt.partTime }
    let next : AuditPass := { position := .index 0, awaited := some 0, view := [], writeEnded := false }
    (placed → j.val = committed % 8) →
    (¬placed → ∃ before q after, p.view = before ++ (j, q) :: after ∧ q % 8 ≠ j.val ∧ ∀ r ∈ before, r.2 % 8 = r.1.val) →
    ∃ t, exec .auditContinue s = .next t ∧ lastAnswer t tag 26#16 .done [] ∧
      (fails → (t.slot i).auditFail = true ∧ (t.slot i).evidence = { (s.slot i).evidence with recordIntegrity := true } ∧
        ((s.slot i).evidence.recordIntegrity = false → (s.slot i).state = .genuine → (t.slot i).state = .suspect) ∧
        (s.audit.mode = .pause →
          t.audit =
            { s.audit with
              state := .paused, passes := passNo, failing := [j], firstFailure := some failure,
              pass := some { p with position := .nextPass } } ∧
          ∃ runs, (∀ e ∈ runs, e.1 ∈ runKinds) ∧
            Raises s t (suspect ++ runs ++ [(.auditPaused, .slot i, 1 * 2 ^ 24 + j.val * 2 ^ 16 + passNo)])) ∧
        (s.audit.mode = .loop →
          t.audit =
            { s.audit with
              state := .running, passes := passNo, failing := if s.audit.accumulate then [j] else [], firstFailure := some failure,
              pass := some next } ∧
          isPending t i .recordRead = true ∧ RaisesThen s t suspect runKinds) ∧
        (s.audit.mode = .once →
          t.audit = { s.audit with state := .done, passes := passNo, failing := [j], firstFailure := some failure, pass := none } ∧
          ∃ runs, (∀ e ∈ runs, e.1 ∈ runKinds) ∧
            Raises s t (suspect ++ runs ++ [(.auditFinished, .slot i, 1 * 2 ^ 16 + passNo)]))) ∧
      (¬fails → (t.slot i).auditFail = (s.slot i).auditFail ∧ (t.slot i).evidence = (s.slot i).evidence ∧
        (t.slot i).state = (s.slot i).state ∧
        (s.audit.mode ≠ .once →
          t.audit =
            { s.audit with state := .running, passes := passNo, failing := [], firstFailure := none, pass := some next } ∧
          isPending t i .recordRead = true ∧ Raises s t []) ∧
        (s.audit.mode = .once →
          t.audit = { s.audit with state := .done, passes := passNo, failing := [], firstFailure := none, pass := none } ∧
          Raises s t [(.auditFinished, .slot i, passNo)])) ∧
      Keeps (Foot.finding ++ Foot.request) s t) ∧
  (∀ s : State, s.audit.state ≠ .paused → Carries .auditContinue 26#16 [] .badState [] s s) ∧
  (∀ s : State, s.audit.state = .running →
    Carries .auditStop 27#16 [] .accepted [] s { s with audit := { s.audit with state := .stopping } }) ∧
  (∀ s : State, s.audit.state = .stopping → Carries .auditStop 27#16 [] .accepted [] s s) ∧
  (∀ (s : State) (tag : Byte) (rest : List Request) (i : SlotNo), Serves s { tag, kind := 27#16, args := [] } rest →
    s.audit.state = .paused → s.audit.slot = some i →
    ∃ t, exec .auditStop s = .next t ∧ t.audit = { s.audit with state := .done, pass := none } ∧
      t.events.queue = queueWith s .auditFinished (.slot i) (s.audit.failing.length * 2 ^ 16 + s.audit.passes) ∧
      lastAnswer t tag 27#16 .done [] ∧ Keeps (Foot.commit ++ Foot.request) s t) ∧
  ∀ s : State, s.audit.state = .idle ∨ s.audit.state = .done ∨ (∃ r, s.audit.state = .aborted r) →
    Carries .auditStop 27#16 [] .badState [] s s

/-- R157, R158, R159: SCHEDULE RUN, SCHEDULE HALT and SCHEDULE WRITE. A next-due tick past 2^48 - 1 is open (log 11). -/
def Obligations.ScheduleRequests : Prop :=
  (∀ s : State, s.mgmt.mode ≠ .standby →
    Carries .scheduleRun 29#16 [] .accepted [] s { s with schedule := { s.schedule with action := .run } }) ∧
  (∀ s : State, s.schedule.running = true →
    Carries .scheduleHalt 30#16 [] .accepted [] s { s with schedule := { s.schedule with action := .halt } }) ∧
  (∀ s : State, s.schedule.running = false →
    Carries .scheduleHalt 30#16 [] .done [] s { s with schedule := { s.schedule with action := .none } }) ∧
  (∀ (s : State) (args : List Byte) (n : SchedNo) (en : Bool) (i : SlotNo) (k : WorkKind) (period offset : Nat),
    fields [1, 1, 1, 1, 2, 2] args = some [n.val, flagNo en, i.val, k.no, period, offset] → 1 ≤ period →
    (s.schedule.running = true → s.schedule.tick + offset < 2 ^ 48) →
    Carries .scheduleWrite 31#16 args .done [] s
      { s with
        schedule :=
          { s.schedule with
            entries := upd s.schedule.entries n
              { enabled := en, slot := i, kind := k, period, offset,
                nextDue := if s.schedule.running then s.schedule.tick + offset else 0, missed := 0 } } }) ∧
  ∀ (s : State) (args : List Byte) (n en i k period offset : Nat),
    fields [1, 1, 1, 1, 2, 2] args = some [n, en, i, k, period, offset] →
    64 ≤ n ∨ 2 ≤ en ∨ 16 ≤ i ∨ 3 ≤ k ∨ period = 0 → Carries .scheduleWrite 31#16 args .badArgument [] s s

/-! ## Requests on events, conditions, mode and time -/

/-- R66, R168-R173, R176, R178-R180, R195, R196: EVENT READ, EVENT INSERT, ROUTE WRITE, CONDITION READ, TIME SET and PART RESET, whose reset
waits for the end of its response; arguments out of range are BAD_ARGUMENT. The event that EVENT INSERT raises is taken by its route: it
sets the overrun flag where it overwrites, and a notice with the new count, the flag and the event's kind and subject is placed, or takes
the place of the one that waits, where the queue was empty or the route notifies, and not otherwise. A reload of the latches is taken by
each indicator's mode as one evaluation. -/
def Obligations.EventAndTimeRequests : Prop :=
  let slotMask (values : Tbl 16 SlotConds) (f : SlotConds → Bool) : List Byte :=
    be 2 ((List.finRange 16).map (fun i => if f (nth values i) then 2 ^ i.val else 0)).sum
  let channelMask (values : Tbl 8 ChannelConds) (f : ChannelConds → Bool) : List Byte :=
    be 1 ((List.finRange 8).map (fun c => if f (nth values c) then 2 ^ c.val else 0)).sum
  let conditions (u : EventUnit) : List Byte :=
    [SlotConds.present, SlotConds.authentic, SlotConds.low, SlotConds.depleted, SlotConds.rejected, SlotConds.suspect, SlotConds.faulted,
      SlotConds.auditFail].flatMap (fun f => slotMask u.slotLive f ++ slotMask u.slotLatch f) ++
    [ChannelConds.starved, ChannelConds.overdraw, ChannelConds.switched].flatMap (fun f =>
      channelMask u.channelLive f ++ channelMask u.channelLatch f)
  (∀ (s : State) (b : Byte), 1 ≤ b.toNat → b.toNat ≤ 16 →
    Carries .eventRead 33#16 [b] .done
      (be 1 (min b.toNat s.events.queue.length) ++
        (s.events.queue.take b.toNat).flatMap (fun e =>
          be 6 e.time ++ be 1 e.kind.no ++ be 1 e.subject.typeNo ++ be 1 e.subject.no ++ be 4 e.detail) ++
        be 2 (s.events.queue.length - b.toNat) ++
        be 1 (flagNo s.events.overrun)) s
      { s with events := { s.events with queue := s.events.queue.drop b.toNat, overrun := false } }) ∧
  (∀ (s : State) (b : Byte), b.toNat = 0 ∨ 16 < b.toNat → Carries .eventRead 33#16 [b] .badArgument [] s s) ∧
  (∀ (s : State) (tag : Byte) (args : List Byte) (rest : List Request) (subj : Subject) (d : Nat),
    Serves s { tag, kind := 34#16, args } rest → fields [1, 1, 4] args = some [subj.typeNo, subj.no, d] →
    let route := nth s.events.routes EventKind.testEntry.idx
    let asks : Prop := (route.queue = true ∧ s.events.queue = []) ∨ route.notify = true
    ∃ t, exec .eventInsert s = .next t ∧ t.events.queue = queueWith s .testEntry subj d ∧
      (t.events.overrun = true ↔ s.events.overrun = true ∨ (route.queue = true ∧ 256 ≤ s.events.queue.length)) ∧
      let notice : OutFrame :=
        .notice { count := t.events.queue.length, overrun := t.events.overrun, cause := .testEntry, subject := subj }
      let answer : OutFrame := .response { tag, kind := 34#16, status := .done, results := be 2 t.events.queue.length }
      (¬asks → ownFrames t = ownFrames s ++ [answer]) ∧
      (asks → (∀ n, OutFrame.notice n ∉ s.link.outgoing) → ownFrames t = ownFrames s ++ [notice, answer]) ∧
      (asks → ∀ before n after, s.link.outgoing = before ++ .notice n :: after → (∀ m, OutFrame.notice m ∉ before) →
        ∃ sending, ownFrames s = sending ++ s.link.outgoing ∧ ownFrames t = sending ++ (before ++ notice :: after) ++ [answer]) ∧
      lastAnswer t tag 34#16 .done (be 2 t.events.queue.length) ∧ Keeps (Foot.raise ++ Foot.request) s t) ∧
  (∀ (s : State) (args : List Byte) (ty n d : Nat), fields [1, 1, 4] args = some [ty, n, d] →
    5 ≤ ty ∨ (ty = 0 ∧ n ≠ 0) ∨ (ty = 1 ∧ 16 ≤ n) ∨ (ty = 2 ∧ 8 ≤ n) ∨ (ty = 3 ∧ 32 ≤ n) ∨ (ty = 4 ∧ 64 ≤ n) →
    Carries .eventInsert 34#16 args .badArgument [] s s) ∧
  (∀ (s : State) (b x y : Byte), b = 0#8 ∨ (28 < b.toNat ∧ b ≠ 0xFF#8) ∨ 2 ≤ x.toNat ∨ 2 ≤ y.toNat →
    Carries .routeWrite 35#16 [b, x, y] .badArgument [] s s) ∧
  (∀ (s : State) (tag b x y : Byte) (rest : List Request) (q n : Bool), Serves s { tag, kind := 35#16, args := [b, x, y] } rest →
    x.toNat = flagNo q → y.toNat = flagNo n → (1 ≤ b.toNat ∧ b.toNat ≤ 28) ∨ b = 0xFF#8 →
    ∃ t, exec .routeWrite s = .next t ∧
      (∀ k : EventKind, nth t.events.routes k.idx =
        if b = 0xFF#8 ∨ b.toNat = k.no then { queue := q, notify := n } else nth s.events.routes k.idx) ∧
      lastAnswer t tag 35#16 .done [] ∧ Keeps (.routes :: Foot.request) s t) ∧
  (∀ s : State, Carries .conditionRead 37#16 [0#8] .done (conditions s.events) s s) ∧
  (∀ (s : State) (tag : Byte) (rest : List Request), Serves s { tag, kind := 37#16, args := [1#8] } rest →
    ∃ t, exec .conditionRead s = .next t ∧ t.events.slotLatch = s.events.slotLive ∧ t.events.channelLatch = s.events.channelLive ∧
      (∀ i, (nth s.indicators i).Evaluated { s.events with slotLatch := s.events.slotLive, channelLatch := s.events.channelLive }
        (nth t.indicators i)) ∧
      lastAnswer t tag 37#16 .done (conditions s.events) ∧ Keeps ([.latches, .indicators] ++ Foot.request) s t) ∧
  (∀ (s : State) (b : Byte), 2 ≤ b.toNat → Carries .conditionRead 37#16 [b] .badArgument [] s s) ∧
  (∀ (s : State) (args : List Byte) (n : Nat), fields [6] args = some [n] →
    Carries .timeSet 43#16 args .done (be 6 s.mgmt.partTime) s { s with mgmt := { s.mgmt with partTime := n } }) ∧
  ∀ s : State, Carries .partReset 44#16 [] .done [] s { s with mgmt := { s.mgmt with resetPending := true } }

/-- R187, R188, R119, R6, R8: the answers of MODE SET that change no mode, and an accepted change between SETUP and RUN, held for the
close of an open swath or applied now: MODE_CHANGED, the mode triggers of a change from RUN to SETUP, and a selection run for every
channel. That the triggers come before the runs, and the runs in ascending channel order, is the model's order (log 9). The hand-over of
the runs is stated for states with the channel laws, which every step keeps (StepsKeepTheChannelLaws). -/
def Obligations.ModeSet : Prop :=
  (∀ (s : State) (x y : Byte) (m : Mode), x.toNat = m.no → y.toNat < 2 →
    let part := (∃ (k : KeyNo) (z : BitVec 128), nth s.keys.image k = .loaded z) ∧
      ∃ (h : HeadNo) (c : ChannelNo), (nth s.meter.headMap h).channel = some c ∧ (s.chan c).ink ≠ 0
    let busy := s.keys.current ≠ none ∨ s.keys.waiting ≠ []
    (m = s.mgmt.mode →
      Carries .modeSet 41#16 [x, y] .done [] s { s with mgmt := { s.mgmt with heldMode := none } }) ∧
    (m ≠ s.mgmt.mode → m = .run → ¬part → Carries .modeSet 41#16 [x, y] .notReady [] s s) ∧
    (m ≠ s.mgmt.mode → (m = .run → part) → s.mgmt.mode = .setup → busy → Carries .modeSet 41#16 [x, y] .busy [] s s)) ∧
  (∀ (s : State) (x y : Byte), 3 ≤ x.toNat ∨ 2 ≤ y.toNat → Carries .modeSet 41#16 [x, y] .badArgument [] s s) ∧
  ∀ (s : State) (tag x y : Byte) (rest : List Request) (m : Mode), Serves s { tag, kind := 41#16, args := [x, y] } rest →
    x.toNat = m.no → y.toNat < 2 → m ≠ s.mgmt.mode → (m = .run → ready s = true) →
    ¬(s.mgmt.mode = .setup ∧ keyWriteBusy s = true) → m ≠ .standby → s.mgmt.mode ≠ .standby →
    let changed : Raised := (.modeChanged, .none, s.mgmt.mode.no * 256 + m.no)
    ∃ t, exec .modeSet s = .next t ∧ lastAnswer t tag 41#16 .accepted [] ∧
      (s.tracker.current ≠ none → y = 0#8 →
        t.mgmt.mode = s.mgmt.mode ∧ t.mgmt.heldMode = some m ∧ Keeps (.heldMode :: Foot.request ++ Foot.settle) s t) ∧
      (s.tracker.current = none ∨ y = 1#8 →
        t.mgmt.mode = m ∧ t.mgmt.heldMode = none ∧ t.tracker.current = none ∧
        (∀ w, s.tracker.current = some w → t.tracker.ring = (SwathOutcome.aborted.recordOf w :: s.tracker.ring).take 16 ∧
          RaisesAmong s t (closeEvents .aborted w) (.modeChanged :: checkKinds) ∧
          RaisesAmong s t [changed] (.swathIrregular :: checkKinds)) ∧
        (s.tracker.current = none →
          (∀ c, RunDecides (s.chan c) (fun i => (t.slot i).state) m (t.chan c)) ∧ (ChannelsLawful s → HandsOver s t) ∧
          ∃ aborted, (∀ e ∈ aborted, e.1 = .auditFinished) ∧ (m = .run → aborted = []) ∧
            Raises s t (changed :: aborted ++ (List.finRange 8).flatMap (fun c => runEvents c (s.chan c) (t.chan c)))) ∧
        (m = .setup → (∀ c, (t.chan c).gate = .closed) ∧
          ∀ i, (s.slot i).state.commitEligible = true → (s.slot i).committed < (s.slot i).consumed →
            (heldSlot s ≠ some i → isPending s i .usageWrite = false → isPending t i .usageWrite = true) ∧
            (heldSlot s ≠ some i → isPending s i .usageWrite = true → (t.slot i).owedCommit = true) ∧
            (heldSlot s = some i → (t.slot i).owedCommit = true ∨ isPending t i .usageWrite = true)) ∧
        (m = .run → (∀ c, (s.chan c).ink ≠ 0 → ((t.chan c).gate = .opened ↔ (t.chan c).active ≠ none)) ∧
          (s.tracker.current = none → t.lines = s.lines ∧ ∀ i, t.slot i = s.slot i))) ∧
      Keeps (.heldMode :: Foot.modeSet ++ Foot.request) s t

/-- R189, R190, R11, R40, R76, R89, R106, R119, R152, R158: an accepted MODE SET to STANDBY closes the swath as ABORTED, takes the mode with
MODE_CHANGED, closes the gates, makes the mode triggers, ends the audit, halts the schedule and drains the lines, each of which stops
once it has nothing to run. The wake starts wake challenges, turns re-challenges into them and identifies slots that settled for it,
takes the mode with MODE_CHANGED, makes a selection run for every channel, and sets the lines running; no swath is open and no audit
active when it comes (R40, R152; see StepsKeepStandbyLaws). That a wake raises the events of the slots first, in ascending
slot order, then MODE_CHANGED, then those of the runs in ascending channel order, is the model's order (log 9). -/
def Obligations.StandbyAndWake : Prop :=
  (∀ (s : State) (tag x y : Byte) (rest : List Request), Serves s { tag, kind := 41#16, args := [x, y] } rest →
    x.toNat = Mode.standby.no → y.toNat < 2 → s.mgmt.mode ≠ .standby → ¬(s.mgmt.mode = .setup ∧ keyWriteBusy s = true) →
    let changed : Raised := (.modeChanged, .none, s.mgmt.mode.no * 256 + 2)
    ∃ t, exec .modeSet s = .next t ∧ lastAnswer t tag 41#16 .accepted [] ∧
      t.mgmt.mode = .standby ∧ t.mgmt.heldMode = none ∧ t.tracker.current = none ∧
      (∀ w, s.tracker.current = some w → t.tracker.ring = (SwathOutcome.aborted.recordOf w :: s.tracker.ring).take 16 ∧
        RaisesAmong s t (closeEvents .aborted w) (.modeChanged :: checkKinds)) ∧
      RaisesAmong s t [changed] (.swathIrregular :: checkKinds) ∧
      (s.tracker.current = none → RaisesThen s t [changed] [.auditFinished, .supplySwitch, .channelStarved, .channelFed]) ∧
      (∀ c, (t.chan c).gate = .closed) ∧ (s.audit.slot ≠ none → t.audit.state.active = false) ∧
      (∀ i, (s.slot i).state.commitEligible = true → (s.slot i).committed < (s.slot i).consumed → heldSlot s ≠ some i →
        isPending t i .usageWrite = true ∧ (isPending s i .usageWrite = true → (t.slot i).owedCommit = true)) ∧
      (∀ i, (s.slot i).state.commitEligible = true → (s.slot i).committed < (s.slot i).consumed → heldSlot s = some i →
        isPending t i .usageWrite = true) ∧
      t.schedule.running = false ∧ t.schedule.action = .none ∧
      (∀ l, (s.line l).condition ≠ .running → (t.line l).condition = (s.line l).condition) ∧
      (∀ l, (s.line l).condition = .running → (t.line l).condition =
        if (t.line l).flight = none ∧ (t.line l).queue = [] ∧ owedEntries l (t.line l) = [] then .stopped else .draining) ∧
      Keeps (.heldMode :: Foot.modeSet ++ Foot.request) s t) ∧
  (∀ (s : State) (l : LineNo), s.powered = true → (s.line l).condition = .draining → (s.line l).flight = none →
    (s.line l).queue = [] → (∀ p k, (nth (s.line l).owed p).has k = false) →
    ∃ t, exec (.lineStop l) s = .next t ∧ t.line l = { s.line l with condition := .stopped } ∧
      (∀ m, m ≠ l → t.line m = s.line m) ∧ Keeps (.lines :: Foot.lane) s t) ∧
  (∀ (s : State) (l : LineNo), s.powered = true →
    (s.line l).condition ≠ .draining ∨ (s.line l).flight ≠ none ∨ (s.line l).queue ≠ [] ∨
      (∃ p k, (nth (s.line l).owed p).has k = true) →
    ∃ t, exec (.lineStop l) s = .next t ∧ Keeps Foot.lane s t) ∧
  ∀ (s : State) (tag x y : Byte) (rest : List Request) (m : Mode), Serves s { tag, kind := 41#16, args := [x, y] } rest →
    x.toNat = m.no → y.toNat < 2 → m ≠ .standby → s.mgmt.mode = .standby → (m = .run → ready s = true) →
    s.tracker.current = none → s.audit.state.active = false →
    let settled (i : SlotNo) : Bool := (s.slot i).state = .settling ∧ (nth s.presence i).wakeMark = true
    ∃ t, exec .modeSet s = .next t ∧ lastAnswer t tag 41#16 .accepted [] ∧ t.mgmt.mode = m ∧ t.mgmt.heldMode = none ∧
      (∀ i (r : ReturnState), (s.slot i).state = r.state →
        (t.slot i).state = .challenging (.wake r) ∧ isPending t i .challenge = true) ∧
      (∀ i (r : ReturnState), (s.slot i).state = .challenging (.rechallenge r) → (t.slot i).state = .challenging (.wake r)) ∧
      (∀ i, settled i = true → (t.slot i).state = .identifying ∧ isPending t i .identify = true ∧
        nth t.presence i = { nth s.presence i with timer := none, wakeMark := false }) ∧
      (∀ i, settled i = false → nth t.presence i = nth s.presence i) ∧
      (∀ i, settled i = false → (s.slot i).state.asReturn = none → (∀ r, (s.slot i).state ≠ .challenging (.rechallenge r)) →
        t.slot i = s.slot i) ∧
      (∀ c, RunDecides (s.chan c) (fun i => (t.slot i).state) m (t.chan c)) ∧ HandsOver s t ∧
      Raises s t ((List.finRange 16).flatMap (fun i => if settled i then [(.slotInserted, .slot i, 0)] else []) ++
        [(.modeChanged, .none, 2 * 256 + m.no)] ++ (List.finRange 8).flatMap (fun c => runEvents c (s.chan c) (t.chan c))) ∧
      (∀ l, (s.line l).condition = .draining ∨ (s.line l).condition = .stopped → (t.line l).condition = .running) ∧
      (∀ l, (s.line l).condition = .held → (t.line l).condition = .held) ∧
      t.audit = s.audit ∧ t.schedule = s.schedule ∧
      Keeps (.heldMode :: Foot.modeSet ++ Foot.request) s t

/-! ## Laws -/

/-- The laws below hold right after reset. -/
def Obligations.LawsHoldAtReset : Prop :=
  CountersLawful State.reset ∧ PlacesLawful State.reset ∧ ListsLawful State.reset ∧ ChannelsLawful State.reset ∧
    LiveAgree State.reset ∧ LatchesLawful State.reset ∧ ResultsAgree State.reset ∧ SerialsDistinct State.reset ∧
    StandbyLawful State.reset

/-- R36: the conservation law of the channel counters holds after every step. -/
def Obligations.StepsKeepTheCounterLaw : Prop :=
  ∀ s t : State, CountersLawful s → step s = .next t → CountersLawful t

/-- R49, R56, R65, R84, R85, R111, R169, R185, R191, R192: no step lets a list outgrow its places or a promised response lose its place,
and after every step a line that holds an owed mark has a full queue. -/
def Obligations.StepsKeepTheQueueBounds : Prop :=
  ∀ s t : State, PlacesLawful s → ListsLawful s → step s = .next t → PlacesLawful t ∧ ListsLawful t

/-- R3, R8: after every step a FEEDING channel has an active slot of its feed list, gates are open only in RUN, and feed lists are
disjoint. -/
def Obligations.StepsKeepTheChannelLaws : Prop :=
  ∀ s t : State, ChannelsLawful s → step s = .next t → ChannelsLawful t

/-- R174, R175, R177, R178: after every step the event unit's live values are those of the records, by R174's table; a CATCH_RISE latch is
true and a CATCH_FALL latch false wherever its live value is; and the result of every enabled indicator is that of its operands. Between
two reloads, which only CONDITION READ and a reset make, a CATCH_RISE latch that is true and a CATCH_FALL latch that is false stay so. -/
def Obligations.StepsKeepLiveValuesTrue : Prop :=
  (∀ s t : State, LiveAgree s → step s = .next t → LiveAgree t) ∧
  (∀ s t : State, LatchesLawful s → step s = .next t → LatchesLawful t) ∧
  (∀ s t : State, ResultsAgree s → step s = .next t → ResultsAgree t) ∧
  ∀ (c : Instr) (s t : State), exec c s = .next t → c ≠ .conditionRead →
    (∀ pins, c ≠ .powerOn pins ∧ c ≠ .resetLine pins ∧ c ≠ .transmissionEnd pins) → (∀ a b, c ≠ .powerLoss a b) →
    LatchesHold s t

/-- R40, R89, R139, R152, R158, R188, R190: after every step in STANDBY no swath is open, no audit is active, the schedule is halted and no
line is RUNNING. -/
def Obligations.StepsKeepStandbyLaws : Prop :=
  ∀ s t : State, StandbyLawful s → step s = .next t → StandbyLawful t

/-- R99: after every step no two slots have a claim on one serial. -/
def Obligations.StepsKeepSerialsDistinct : Prop :=
  ∀ s t : State, SerialsDistinct s → step s = .next t → SerialsDistinct t

/-- 00_scope.md, "Table classes": outside SETUP no command changes the head map, the deny list or a channel's setup-class fields, the
commands that can end in a reset (POWER_ON, RESET_LINE, TRANSMISSION_END) and POWER_LOSS left out. The other two setup-class tables, the
key table and the test write arm, are not spoken of here. -/
def Obligations.HeadMapDenyListAndChannelSetupHold : Prop :=
  ∀ (c : Instr) (s t : State), s.mgmt.mode ≠ .setup → exec c s = .next t →
    (∀ pins, c ≠ .powerOn pins ∧ c ≠ .resetLine pins ∧ c ≠ .transmissionEnd pins) → (∀ a b, c ≠ .powerLoss a b) →
    t.meter.headMap = s.meter.headMap ∧ t.deny = s.deny ∧ ∀ ch, (t.chan ch).setup = (s.chan ch).setup

/-- R57, R61, R68, R69: a frame sent with its check is received as it was, and a FIRING frame, a swath frame and a request are taken
as the commands they stand for. Upstream frames and the answer frames of R72 are left out. -/
def Obligations.WireFramesRoundTrip : Prop :=
  (∀ f : LinkFrame, kindLengthOk f = true → LinkFrame.ofWire f.wire = some f) ∧
  (∀ (bridge : Nat) (f : FiringFrame), f.lengthOk = true → addressOf f.hdr < 32 →
    receiveDownstream bridge f.frame.wire = .firing f) ∧
  (∀ (bridge : Nat) (hdr : Byte) (id : BitVec 16),
    receiveDownstream bridge (swathFrame 0x11#8 hdr id).wire = .swathOpen hdr id ∧
    receiveDownstream bridge (swathFrame 0x12#8 hdr id).wire = .swathClose hdr id) ∧
  ∀ (bridge : Nat) (hdr tag : Byte) (kind : BitVec 16) (args : List Byte), addressOf hdr = bridge → args.length ≤ 2045 →
    receiveDownstream bridge ({ kind := 0x14#8, hdr, body := tag :: be 2 kind.toNat ++ args } : LinkFrame).wire =
      .management tag kind args
end

