-- ==== Sys2Proof/Laws/State.lean ====
section
/-!
SUPPORT. One lemma per field per update of a record by its number, and what the numbered reads give after one.
-/

namespace Sys2Proof.Machine

/-! ## setSlot -/

@[simp] theorem setSlot_pending (s : State) (i : SlotNo) (x : Slot) : (s.setSlot i x).pending = s.pending := rfl
@[simp] theorem setSlot_powered (s : State) (i : SlotNo) (x : Slot) : (s.setSlot i x).powered = s.powered := rfl
@[simp] theorem setSlot_link (s : State) (i : SlotNo) (x : Slot) : (s.setSlot i x).link = s.link := rfl
@[simp] theorem setSlot_tracker (s : State) (i : SlotNo) (x : Slot) : (s.setSlot i x).tracker = s.tracker := rfl
@[simp] theorem setSlot_meter (s : State) (i : SlotNo) (x : Slot) : (s.setSlot i x).meter = s.meter := rfl
@[simp] theorem setSlot_channels (s : State) (i : SlotNo) (x : Slot) : (s.setSlot i x).channels = s.channels := rfl
@[simp] theorem setSlot_presence (s : State) (i : SlotNo) (x : Slot) : (s.setSlot i x).presence = s.presence := rfl
@[simp] theorem setSlot_slots (s : State) (i : SlotNo) (x : Slot) : (s.setSlot i x).slots = upd s.slots i x := rfl
@[simp] theorem setSlot_handover (s : State) (i : SlotNo) (x : Slot) : (s.setSlot i x).handover = s.handover := rfl
@[simp] theorem setSlot_testArm (s : State) (i : SlotNo) (x : Slot) : (s.setSlot i x).testArm = s.testArm := rfl
@[simp] theorem setSlot_keys (s : State) (i : SlotNo) (x : Slot) : (s.setSlot i x).keys = s.keys := rfl
@[simp] theorem setSlot_deny (s : State) (i : SlotNo) (x : Slot) : (s.setSlot i x).deny = s.deny := rfl
@[simp] theorem setSlot_nonceNext (s : State) (i : SlotNo) (x : Slot) : (s.setSlot i x).nonceNext = s.nonceNext := rfl
@[simp] theorem setSlot_lines (s : State) (i : SlotNo) (x : Slot) : (s.setSlot i x).lines = s.lines := rfl
@[simp] theorem setSlot_busOut (s : State) (i : SlotNo) (x : Slot) : (s.setSlot i x).busOut = s.busOut := rfl
@[simp] theorem setSlot_history (s : State) (i : SlotNo) (x : Slot) : (s.setSlot i x).history = s.history := rfl
@[simp] theorem setSlot_audit (s : State) (i : SlotNo) (x : Slot) : (s.setSlot i x).audit = s.audit := rfl
@[simp] theorem setSlot_schedule (s : State) (i : SlotNo) (x : Slot) : (s.setSlot i x).schedule = s.schedule := rfl
@[simp] theorem setSlot_events (s : State) (i : SlotNo) (x : Slot) : (s.setSlot i x).events = s.events := rfl
@[simp] theorem setSlot_indicators (s : State) (i : SlotNo) (x : Slot) : (s.setSlot i x).indicators = s.indicators := rfl
@[simp] theorem setSlot_mgmt (s : State) (i : SlotNo) (x : Slot) : (s.setSlot i x).mgmt = s.mgmt := rfl
@[simp] theorem setSlot_freeCount (s : State) (i : SlotNo) (x : Slot) : (s.setSlot i x).freeCount = s.freeCount := rfl

/-! ## setChan -/

@[simp] theorem setChan_pending (s : State) (c : ChannelNo) (x : Channel) : (s.setChan c x).pending = s.pending := rfl
@[simp] theorem setChan_powered (s : State) (c : ChannelNo) (x : Channel) : (s.setChan c x).powered = s.powered := rfl
@[simp] theorem setChan_link (s : State) (c : ChannelNo) (x : Channel) : (s.setChan c x).link = s.link := rfl
@[simp] theorem setChan_tracker (s : State) (c : ChannelNo) (x : Channel) : (s.setChan c x).tracker = s.tracker := rfl
@[simp] theorem setChan_meter (s : State) (c : ChannelNo) (x : Channel) : (s.setChan c x).meter = s.meter := rfl
@[simp] theorem setChan_channels (s : State) (c : ChannelNo) (x : Channel) : (s.setChan c x).channels = upd s.channels c x := rfl
@[simp] theorem setChan_presence (s : State) (c : ChannelNo) (x : Channel) : (s.setChan c x).presence = s.presence := rfl
@[simp] theorem setChan_slots (s : State) (c : ChannelNo) (x : Channel) : (s.setChan c x).slots = s.slots := rfl
@[simp] theorem setChan_handover (s : State) (c : ChannelNo) (x : Channel) : (s.setChan c x).handover = s.handover := rfl
@[simp] theorem setChan_testArm (s : State) (c : ChannelNo) (x : Channel) : (s.setChan c x).testArm = s.testArm := rfl
@[simp] theorem setChan_keys (s : State) (c : ChannelNo) (x : Channel) : (s.setChan c x).keys = s.keys := rfl
@[simp] theorem setChan_deny (s : State) (c : ChannelNo) (x : Channel) : (s.setChan c x).deny = s.deny := rfl
@[simp] theorem setChan_nonceNext (s : State) (c : ChannelNo) (x : Channel) : (s.setChan c x).nonceNext = s.nonceNext := rfl
@[simp] theorem setChan_lines (s : State) (c : ChannelNo) (x : Channel) : (s.setChan c x).lines = s.lines := rfl
@[simp] theorem setChan_busOut (s : State) (c : ChannelNo) (x : Channel) : (s.setChan c x).busOut = s.busOut := rfl
@[simp] theorem setChan_history (s : State) (c : ChannelNo) (x : Channel) : (s.setChan c x).history = s.history := rfl
@[simp] theorem setChan_audit (s : State) (c : ChannelNo) (x : Channel) : (s.setChan c x).audit = s.audit := rfl
@[simp] theorem setChan_schedule (s : State) (c : ChannelNo) (x : Channel) : (s.setChan c x).schedule = s.schedule := rfl
@[simp] theorem setChan_events (s : State) (c : ChannelNo) (x : Channel) : (s.setChan c x).events = s.events := rfl
@[simp] theorem setChan_indicators (s : State) (c : ChannelNo) (x : Channel) : (s.setChan c x).indicators = s.indicators := rfl
@[simp] theorem setChan_mgmt (s : State) (c : ChannelNo) (x : Channel) : (s.setChan c x).mgmt = s.mgmt := rfl
@[simp] theorem setChan_freeCount (s : State) (c : ChannelNo) (x : Channel) : (s.setChan c x).freeCount = s.freeCount := rfl

/-! ## setLine -/

@[simp] theorem setLine_pending (s : State) (l : LineNo) (x : Line) : (s.setLine l x).pending = s.pending := rfl
@[simp] theorem setLine_powered (s : State) (l : LineNo) (x : Line) : (s.setLine l x).powered = s.powered := rfl
@[simp] theorem setLine_link (s : State) (l : LineNo) (x : Line) : (s.setLine l x).link = s.link := rfl
@[simp] theorem setLine_tracker (s : State) (l : LineNo) (x : Line) : (s.setLine l x).tracker = s.tracker := rfl
@[simp] theorem setLine_meter (s : State) (l : LineNo) (x : Line) : (s.setLine l x).meter = s.meter := rfl
@[simp] theorem setLine_channels (s : State) (l : LineNo) (x : Line) : (s.setLine l x).channels = s.channels := rfl
@[simp] theorem setLine_presence (s : State) (l : LineNo) (x : Line) : (s.setLine l x).presence = s.presence := rfl
@[simp] theorem setLine_slots (s : State) (l : LineNo) (x : Line) : (s.setLine l x).slots = s.slots := rfl
@[simp] theorem setLine_handover (s : State) (l : LineNo) (x : Line) : (s.setLine l x).handover = s.handover := rfl
@[simp] theorem setLine_testArm (s : State) (l : LineNo) (x : Line) : (s.setLine l x).testArm = s.testArm := rfl
@[simp] theorem setLine_keys (s : State) (l : LineNo) (x : Line) : (s.setLine l x).keys = s.keys := rfl
@[simp] theorem setLine_deny (s : State) (l : LineNo) (x : Line) : (s.setLine l x).deny = s.deny := rfl
@[simp] theorem setLine_nonceNext (s : State) (l : LineNo) (x : Line) : (s.setLine l x).nonceNext = s.nonceNext := rfl
@[simp] theorem setLine_lines (s : State) (l : LineNo) (x : Line) : (s.setLine l x).lines = upd s.lines l x := rfl
@[simp] theorem setLine_busOut (s : State) (l : LineNo) (x : Line) : (s.setLine l x).busOut = s.busOut := rfl
@[simp] theorem setLine_history (s : State) (l : LineNo) (x : Line) : (s.setLine l x).history = s.history := rfl
@[simp] theorem setLine_audit (s : State) (l : LineNo) (x : Line) : (s.setLine l x).audit = s.audit := rfl
@[simp] theorem setLine_schedule (s : State) (l : LineNo) (x : Line) : (s.setLine l x).schedule = s.schedule := rfl
@[simp] theorem setLine_events (s : State) (l : LineNo) (x : Line) : (s.setLine l x).events = s.events := rfl
@[simp] theorem setLine_indicators (s : State) (l : LineNo) (x : Line) : (s.setLine l x).indicators = s.indicators := rfl
@[simp] theorem setLine_mgmt (s : State) (l : LineNo) (x : Line) : (s.setLine l x).mgmt = s.mgmt := rfl
@[simp] theorem setLine_freeCount (s : State) (l : LineNo) (x : Line) : (s.setLine l x).freeCount = s.freeCount := rfl

/-! ## setPresence -/

@[simp] theorem setPresence_pending (s : State) (i : SlotNo) (x : Presence) : (s.setPresence i x).pending = s.pending := rfl
@[simp] theorem setPresence_powered (s : State) (i : SlotNo) (x : Presence) : (s.setPresence i x).powered = s.powered := rfl
@[simp] theorem setPresence_link (s : State) (i : SlotNo) (x : Presence) : (s.setPresence i x).link = s.link := rfl
@[simp] theorem setPresence_tracker (s : State) (i : SlotNo) (x : Presence) : (s.setPresence i x).tracker = s.tracker := rfl
@[simp] theorem setPresence_meter (s : State) (i : SlotNo) (x : Presence) : (s.setPresence i x).meter = s.meter := rfl
@[simp] theorem setPresence_channels (s : State) (i : SlotNo) (x : Presence) : (s.setPresence i x).channels = s.channels := rfl
@[simp] theorem setPresence_presence (s : State) (i : SlotNo) (x : Presence) : (s.setPresence i x).presence = upd s.presence i x := rfl
@[simp] theorem setPresence_slots (s : State) (i : SlotNo) (x : Presence) : (s.setPresence i x).slots = s.slots := rfl
@[simp] theorem setPresence_handover (s : State) (i : SlotNo) (x : Presence) : (s.setPresence i x).handover = s.handover := rfl
@[simp] theorem setPresence_testArm (s : State) (i : SlotNo) (x : Presence) : (s.setPresence i x).testArm = s.testArm := rfl
@[simp] theorem setPresence_keys (s : State) (i : SlotNo) (x : Presence) : (s.setPresence i x).keys = s.keys := rfl
@[simp] theorem setPresence_deny (s : State) (i : SlotNo) (x : Presence) : (s.setPresence i x).deny = s.deny := rfl
@[simp] theorem setPresence_nonceNext (s : State) (i : SlotNo) (x : Presence) : (s.setPresence i x).nonceNext = s.nonceNext := rfl
@[simp] theorem setPresence_lines (s : State) (i : SlotNo) (x : Presence) : (s.setPresence i x).lines = s.lines := rfl
@[simp] theorem setPresence_busOut (s : State) (i : SlotNo) (x : Presence) : (s.setPresence i x).busOut = s.busOut := rfl
@[simp] theorem setPresence_history (s : State) (i : SlotNo) (x : Presence) : (s.setPresence i x).history = s.history := rfl
@[simp] theorem setPresence_audit (s : State) (i : SlotNo) (x : Presence) : (s.setPresence i x).audit = s.audit := rfl
@[simp] theorem setPresence_schedule (s : State) (i : SlotNo) (x : Presence) : (s.setPresence i x).schedule = s.schedule := rfl
@[simp] theorem setPresence_events (s : State) (i : SlotNo) (x : Presence) : (s.setPresence i x).events = s.events := rfl
@[simp] theorem setPresence_indicators (s : State) (i : SlotNo) (x : Presence) : (s.setPresence i x).indicators = s.indicators := rfl
@[simp] theorem setPresence_mgmt (s : State) (i : SlotNo) (x : Presence) : (s.setPresence i x).mgmt = s.mgmt := rfl
@[simp] theorem setPresence_freeCount (s : State) (i : SlotNo) (x : Presence) : (s.setPresence i x).freeCount = s.freeCount := rfl

/-! ## setCounters -/

@[simp] theorem setCounters_pending (s : State) (c : ChannelNo) (x : Counters) : (s.setCounters c x).pending = s.pending := rfl
@[simp] theorem setCounters_powered (s : State) (c : ChannelNo) (x : Counters) : (s.setCounters c x).powered = s.powered := rfl
@[simp] theorem setCounters_link (s : State) (c : ChannelNo) (x : Counters) : (s.setCounters c x).link = s.link := rfl
@[simp] theorem setCounters_tracker (s : State) (c : ChannelNo) (x : Counters) : (s.setCounters c x).tracker = s.tracker := rfl
@[simp] theorem setCounters_meter (s : State) (c : ChannelNo) (x : Counters) : (s.setCounters c x).meter = { s.meter with counters := upd s.meter.counters c x } := rfl
@[simp] theorem setCounters_channels (s : State) (c : ChannelNo) (x : Counters) : (s.setCounters c x).channels = s.channels := rfl
@[simp] theorem setCounters_presence (s : State) (c : ChannelNo) (x : Counters) : (s.setCounters c x).presence = s.presence := rfl
@[simp] theorem setCounters_slots (s : State) (c : ChannelNo) (x : Counters) : (s.setCounters c x).slots = s.slots := rfl
@[simp] theorem setCounters_handover (s : State) (c : ChannelNo) (x : Counters) : (s.setCounters c x).handover = s.handover := rfl
@[simp] theorem setCounters_testArm (s : State) (c : ChannelNo) (x : Counters) : (s.setCounters c x).testArm = s.testArm := rfl
@[simp] theorem setCounters_keys (s : State) (c : ChannelNo) (x : Counters) : (s.setCounters c x).keys = s.keys := rfl
@[simp] theorem setCounters_deny (s : State) (c : ChannelNo) (x : Counters) : (s.setCounters c x).deny = s.deny := rfl
@[simp] theorem setCounters_nonceNext (s : State) (c : ChannelNo) (x : Counters) : (s.setCounters c x).nonceNext = s.nonceNext := rfl
@[simp] theorem setCounters_lines (s : State) (c : ChannelNo) (x : Counters) : (s.setCounters c x).lines = s.lines := rfl
@[simp] theorem setCounters_busOut (s : State) (c : ChannelNo) (x : Counters) : (s.setCounters c x).busOut = s.busOut := rfl
@[simp] theorem setCounters_history (s : State) (c : ChannelNo) (x : Counters) : (s.setCounters c x).history = s.history := rfl
@[simp] theorem setCounters_audit (s : State) (c : ChannelNo) (x : Counters) : (s.setCounters c x).audit = s.audit := rfl
@[simp] theorem setCounters_schedule (s : State) (c : ChannelNo) (x : Counters) : (s.setCounters c x).schedule = s.schedule := rfl
@[simp] theorem setCounters_events (s : State) (c : ChannelNo) (x : Counters) : (s.setCounters c x).events = s.events := rfl
@[simp] theorem setCounters_indicators (s : State) (c : ChannelNo) (x : Counters) : (s.setCounters c x).indicators = s.indicators := rfl
@[simp] theorem setCounters_mgmt (s : State) (c : ChannelNo) (x : Counters) : (s.setCounters c x).mgmt = s.mgmt := rfl
@[simp] theorem setCounters_freeCount (s : State) (c : ChannelNo) (x : Counters) : (s.setCounters c x).freeCount = s.freeCount := rfl

/-! ## setHandover -/

@[simp] theorem setHandover_pending (s : State) (i : SlotNo) (b : Bool) : (s.setHandover i b).pending = s.pending := rfl
@[simp] theorem setHandover_powered (s : State) (i : SlotNo) (b : Bool) : (s.setHandover i b).powered = s.powered := rfl
@[simp] theorem setHandover_link (s : State) (i : SlotNo) (b : Bool) : (s.setHandover i b).link = s.link := rfl
@[simp] theorem setHandover_tracker (s : State) (i : SlotNo) (b : Bool) : (s.setHandover i b).tracker = s.tracker := rfl
@[simp] theorem setHandover_meter (s : State) (i : SlotNo) (b : Bool) : (s.setHandover i b).meter = s.meter := rfl
@[simp] theorem setHandover_channels (s : State) (i : SlotNo) (b : Bool) : (s.setHandover i b).channels = s.channels := rfl
@[simp] theorem setHandover_presence (s : State) (i : SlotNo) (b : Bool) : (s.setHandover i b).presence = s.presence := rfl
@[simp] theorem setHandover_slots (s : State) (i : SlotNo) (b : Bool) : (s.setHandover i b).slots = s.slots := rfl
@[simp] theorem setHandover_handover (s : State) (i : SlotNo) (b : Bool) : (s.setHandover i b).handover = upd s.handover i b := rfl
@[simp] theorem setHandover_testArm (s : State) (i : SlotNo) (b : Bool) : (s.setHandover i b).testArm = s.testArm := rfl
@[simp] theorem setHandover_keys (s : State) (i : SlotNo) (b : Bool) : (s.setHandover i b).keys = s.keys := rfl
@[simp] theorem setHandover_deny (s : State) (i : SlotNo) (b : Bool) : (s.setHandover i b).deny = s.deny := rfl
@[simp] theorem setHandover_nonceNext (s : State) (i : SlotNo) (b : Bool) : (s.setHandover i b).nonceNext = s.nonceNext := rfl
@[simp] theorem setHandover_lines (s : State) (i : SlotNo) (b : Bool) : (s.setHandover i b).lines = s.lines := rfl
@[simp] theorem setHandover_busOut (s : State) (i : SlotNo) (b : Bool) : (s.setHandover i b).busOut = s.busOut := rfl
@[simp] theorem setHandover_history (s : State) (i : SlotNo) (b : Bool) : (s.setHandover i b).history = s.history := rfl
@[simp] theorem setHandover_audit (s : State) (i : SlotNo) (b : Bool) : (s.setHandover i b).audit = s.audit := rfl
@[simp] theorem setHandover_schedule (s : State) (i : SlotNo) (b : Bool) : (s.setHandover i b).schedule = s.schedule := rfl
@[simp] theorem setHandover_events (s : State) (i : SlotNo) (b : Bool) : (s.setHandover i b).events = s.events := rfl
@[simp] theorem setHandover_indicators (s : State) (i : SlotNo) (b : Bool) : (s.setHandover i b).indicators = s.indicators := rfl
@[simp] theorem setHandover_mgmt (s : State) (i : SlotNo) (b : Bool) : (s.setHandover i b).mgmt = s.mgmt := rfl
@[simp] theorem setHandover_freeCount (s : State) (i : SlotNo) (b : Bool) : (s.setHandover i b).freeCount = s.freeCount := rfl

/-! ## setAudit -/

@[simp] theorem setAudit_pending (s : State) (a : Audit) : (s.setAudit a).pending = s.pending := rfl
@[simp] theorem setAudit_powered (s : State) (a : Audit) : (s.setAudit a).powered = s.powered := rfl
@[simp] theorem setAudit_link (s : State) (a : Audit) : (s.setAudit a).link = s.link := rfl
@[simp] theorem setAudit_tracker (s : State) (a : Audit) : (s.setAudit a).tracker = s.tracker := rfl
@[simp] theorem setAudit_meter (s : State) (a : Audit) : (s.setAudit a).meter = s.meter := rfl
@[simp] theorem setAudit_channels (s : State) (a : Audit) : (s.setAudit a).channels = s.channels := rfl
@[simp] theorem setAudit_presence (s : State) (a : Audit) : (s.setAudit a).presence = s.presence := rfl
@[simp] theorem setAudit_slots (s : State) (a : Audit) : (s.setAudit a).slots = s.slots := rfl
@[simp] theorem setAudit_handover (s : State) (a : Audit) : (s.setAudit a).handover = s.handover := rfl
@[simp] theorem setAudit_testArm (s : State) (a : Audit) : (s.setAudit a).testArm = s.testArm := rfl
@[simp] theorem setAudit_keys (s : State) (a : Audit) : (s.setAudit a).keys = s.keys := rfl
@[simp] theorem setAudit_deny (s : State) (a : Audit) : (s.setAudit a).deny = s.deny := rfl
@[simp] theorem setAudit_nonceNext (s : State) (a : Audit) : (s.setAudit a).nonceNext = s.nonceNext := rfl
@[simp] theorem setAudit_lines (s : State) (a : Audit) : (s.setAudit a).lines = s.lines := rfl
@[simp] theorem setAudit_busOut (s : State) (a : Audit) : (s.setAudit a).busOut = s.busOut := rfl
@[simp] theorem setAudit_history (s : State) (a : Audit) : (s.setAudit a).history = s.history := rfl
@[simp] theorem setAudit_audit (s : State) (a : Audit) : (s.setAudit a).audit = a := rfl
@[simp] theorem setAudit_schedule (s : State) (a : Audit) : (s.setAudit a).schedule = s.schedule := rfl
@[simp] theorem setAudit_events (s : State) (a : Audit) : (s.setAudit a).events = s.events := rfl
@[simp] theorem setAudit_indicators (s : State) (a : Audit) : (s.setAudit a).indicators = s.indicators := rfl
@[simp] theorem setAudit_mgmt (s : State) (a : Audit) : (s.setAudit a).mgmt = s.mgmt := rfl
@[simp] theorem setAudit_freeCount (s : State) (a : Audit) : (s.setAudit a).freeCount = s.freeCount := rfl

/-! ## setIndicator -/

@[simp] theorem setIndicator_pending (s : State) (i : IndNo) (d : Indicator) : (s.setIndicator i d).pending = s.pending := rfl
@[simp] theorem setIndicator_powered (s : State) (i : IndNo) (d : Indicator) : (s.setIndicator i d).powered = s.powered := rfl
@[simp] theorem setIndicator_link (s : State) (i : IndNo) (d : Indicator) : (s.setIndicator i d).link = s.link := rfl
@[simp] theorem setIndicator_tracker (s : State) (i : IndNo) (d : Indicator) : (s.setIndicator i d).tracker = s.tracker := rfl
@[simp] theorem setIndicator_meter (s : State) (i : IndNo) (d : Indicator) : (s.setIndicator i d).meter = s.meter := rfl
@[simp] theorem setIndicator_channels (s : State) (i : IndNo) (d : Indicator) : (s.setIndicator i d).channels = s.channels := rfl
@[simp] theorem setIndicator_presence (s : State) (i : IndNo) (d : Indicator) : (s.setIndicator i d).presence = s.presence := rfl
@[simp] theorem setIndicator_slots (s : State) (i : IndNo) (d : Indicator) : (s.setIndicator i d).slots = s.slots := rfl
@[simp] theorem setIndicator_handover (s : State) (i : IndNo) (d : Indicator) : (s.setIndicator i d).handover = s.handover := rfl
@[simp] theorem setIndicator_testArm (s : State) (i : IndNo) (d : Indicator) : (s.setIndicator i d).testArm = s.testArm := rfl
@[simp] theorem setIndicator_keys (s : State) (i : IndNo) (d : Indicator) : (s.setIndicator i d).keys = s.keys := rfl
@[simp] theorem setIndicator_deny (s : State) (i : IndNo) (d : Indicator) : (s.setIndicator i d).deny = s.deny := rfl
@[simp] theorem setIndicator_nonceNext (s : State) (i : IndNo) (d : Indicator) : (s.setIndicator i d).nonceNext = s.nonceNext := rfl
@[simp] theorem setIndicator_lines (s : State) (i : IndNo) (d : Indicator) : (s.setIndicator i d).lines = s.lines := rfl
@[simp] theorem setIndicator_busOut (s : State) (i : IndNo) (d : Indicator) : (s.setIndicator i d).busOut = s.busOut := rfl
@[simp] theorem setIndicator_history (s : State) (i : IndNo) (d : Indicator) : (s.setIndicator i d).history = s.history := rfl
@[simp] theorem setIndicator_audit (s : State) (i : IndNo) (d : Indicator) : (s.setIndicator i d).audit = s.audit := rfl
@[simp] theorem setIndicator_schedule (s : State) (i : IndNo) (d : Indicator) : (s.setIndicator i d).schedule = s.schedule := rfl
@[simp] theorem setIndicator_events (s : State) (i : IndNo) (d : Indicator) : (s.setIndicator i d).events = s.events := rfl
@[simp] theorem setIndicator_indicators (s : State) (i : IndNo) (d : Indicator) : (s.setIndicator i d).indicators = upd s.indicators i d := rfl
@[simp] theorem setIndicator_mgmt (s : State) (i : IndNo) (d : Indicator) : (s.setIndicator i d).mgmt = s.mgmt := rfl
@[simp] theorem setIndicator_freeCount (s : State) (i : IndNo) (d : Indicator) : (s.setIndicator i d).freeCount = s.freeCount := rfl

/-! ## setSlotState -/

@[simp] theorem setSlotState_pending (s : State) (i : SlotNo) (st : SlotState) : (s.setSlotState i st).pending = s.pending := rfl
@[simp] theorem setSlotState_powered (s : State) (i : SlotNo) (st : SlotState) : (s.setSlotState i st).powered = s.powered := rfl
@[simp] theorem setSlotState_link (s : State) (i : SlotNo) (st : SlotState) : (s.setSlotState i st).link = s.link := rfl
@[simp] theorem setSlotState_tracker (s : State) (i : SlotNo) (st : SlotState) : (s.setSlotState i st).tracker = s.tracker := rfl
@[simp] theorem setSlotState_meter (s : State) (i : SlotNo) (st : SlotState) : (s.setSlotState i st).meter = s.meter := rfl
@[simp] theorem setSlotState_channels (s : State) (i : SlotNo) (st : SlotState) : (s.setSlotState i st).channels = s.channels := rfl
@[simp] theorem setSlotState_presence (s : State) (i : SlotNo) (st : SlotState) : (s.setSlotState i st).presence = s.presence := rfl
@[simp] theorem setSlotState_slots (s : State) (i : SlotNo) (st : SlotState) : (s.setSlotState i st).slots = upd s.slots i { s.slot i with state := st } := rfl
@[simp] theorem setSlotState_handover (s : State) (i : SlotNo) (st : SlotState) : (s.setSlotState i st).handover = s.handover := rfl
@[simp] theorem setSlotState_testArm (s : State) (i : SlotNo) (st : SlotState) : (s.setSlotState i st).testArm = s.testArm := rfl
@[simp] theorem setSlotState_keys (s : State) (i : SlotNo) (st : SlotState) : (s.setSlotState i st).keys = s.keys := rfl
@[simp] theorem setSlotState_deny (s : State) (i : SlotNo) (st : SlotState) : (s.setSlotState i st).deny = s.deny := rfl
@[simp] theorem setSlotState_nonceNext (s : State) (i : SlotNo) (st : SlotState) : (s.setSlotState i st).nonceNext = s.nonceNext := rfl
@[simp] theorem setSlotState_lines (s : State) (i : SlotNo) (st : SlotState) : (s.setSlotState i st).lines = s.lines := rfl
@[simp] theorem setSlotState_busOut (s : State) (i : SlotNo) (st : SlotState) : (s.setSlotState i st).busOut = s.busOut := rfl
@[simp] theorem setSlotState_history (s : State) (i : SlotNo) (st : SlotState) : (s.setSlotState i st).history = s.history := rfl
@[simp] theorem setSlotState_audit (s : State) (i : SlotNo) (st : SlotState) : (s.setSlotState i st).audit = s.audit := rfl
@[simp] theorem setSlotState_schedule (s : State) (i : SlotNo) (st : SlotState) : (s.setSlotState i st).schedule = s.schedule := rfl
@[simp] theorem setSlotState_events (s : State) (i : SlotNo) (st : SlotState) : (s.setSlotState i st).events = s.events := rfl
@[simp] theorem setSlotState_indicators (s : State) (i : SlotNo) (st : SlotState) : (s.setSlotState i st).indicators = s.indicators := rfl
@[simp] theorem setSlotState_mgmt (s : State) (i : SlotNo) (st : SlotState) : (s.setSlotState i st).mgmt = s.mgmt := rfl
@[simp] theorem setSlotState_freeCount (s : State) (i : SlotNo) (st : SlotState) : (s.setSlotState i st).freeCount = s.freeCount := rfl

/-! ## Numbered reads -/

@[simp] theorem slot_setSlot (s : State) (i j : SlotNo) (x : Slot) : (s.setSlot i x).slot j = if i = j then x else s.slot j := by
  simp [State.slot, nth_upd]

@[simp] theorem chan_setChan (s : State) (c d : ChannelNo) (x : Channel) :
    (s.setChan c x).chan d = if c = d then x else s.chan d := by
  simp [State.chan, nth_upd]

@[simp] theorem line_setLine (s : State) (l m : LineNo) (x : Line) : (s.setLine l x).line m = if l = m then x else s.line m := by
  simp [State.line, nth_upd]

@[simp] theorem counter_setCounters (s : State) (c d : ChannelNo) (x : Counters) :
    (s.setCounters c x).counter d = if c = d then x else s.counter d := by
  simp [State.counter, nth_upd]

@[simp] theorem slot_setSlotState (s : State) (i j : SlotNo) (st : SlotState) :
    (s.setSlotState i st).slot j = if i = j then { s.slot i with state := st } else s.slot j := slot_setSlot s i j _

@[simp] theorem chan_setSlot (s : State) (i : SlotNo) (x : Slot) (n : ChannelNo) : (s.setSlot i x).chan n = s.chan n := rfl
@[simp] theorem line_setSlot (s : State) (i : SlotNo) (x : Slot) (n : LineNo) : (s.setSlot i x).line n = s.line n := rfl
@[simp] theorem counter_setSlot (s : State) (i : SlotNo) (x : Slot) (n : ChannelNo) : (s.setSlot i x).counter n = s.counter n := rfl
@[simp] theorem slot_setChan (s : State) (c : ChannelNo) (x : Channel) (n : SlotNo) : (s.setChan c x).slot n = s.slot n := rfl
@[simp] theorem line_setChan (s : State) (c : ChannelNo) (x : Channel) (n : LineNo) : (s.setChan c x).line n = s.line n := rfl
@[simp] theorem counter_setChan (s : State) (c : ChannelNo) (x : Channel) (n : ChannelNo) : (s.setChan c x).counter n = s.counter n := rfl
@[simp] theorem slot_setLine (s : State) (l : LineNo) (x : Line) (n : SlotNo) : (s.setLine l x).slot n = s.slot n := rfl
@[simp] theorem chan_setLine (s : State) (l : LineNo) (x : Line) (n : ChannelNo) : (s.setLine l x).chan n = s.chan n := rfl
@[simp] theorem counter_setLine (s : State) (l : LineNo) (x : Line) (n : ChannelNo) : (s.setLine l x).counter n = s.counter n := rfl
@[simp] theorem slot_setPresence (s : State) (i : SlotNo) (x : Presence) (n : SlotNo) : (s.setPresence i x).slot n = s.slot n := rfl
@[simp] theorem chan_setPresence (s : State) (i : SlotNo) (x : Presence) (n : ChannelNo) : (s.setPresence i x).chan n = s.chan n := rfl
@[simp] theorem line_setPresence (s : State) (i : SlotNo) (x : Presence) (n : LineNo) : (s.setPresence i x).line n = s.line n := rfl
@[simp] theorem counter_setPresence (s : State) (i : SlotNo) (x : Presence) (n : ChannelNo) : (s.setPresence i x).counter n = s.counter n := rfl
@[simp] theorem slot_setCounters (s : State) (c : ChannelNo) (x : Counters) (n : SlotNo) : (s.setCounters c x).slot n = s.slot n := rfl
@[simp] theorem chan_setCounters (s : State) (c : ChannelNo) (x : Counters) (n : ChannelNo) : (s.setCounters c x).chan n = s.chan n := rfl
@[simp] theorem line_setCounters (s : State) (c : ChannelNo) (x : Counters) (n : LineNo) : (s.setCounters c x).line n = s.line n := rfl
@[simp] theorem slot_setHandover (s : State) (i : SlotNo) (b : Bool) (n : SlotNo) : (s.setHandover i b).slot n = s.slot n := rfl
@[simp] theorem chan_setHandover (s : State) (i : SlotNo) (b : Bool) (n : ChannelNo) : (s.setHandover i b).chan n = s.chan n := rfl
@[simp] theorem line_setHandover (s : State) (i : SlotNo) (b : Bool) (n : LineNo) : (s.setHandover i b).line n = s.line n := rfl
@[simp] theorem counter_setHandover (s : State) (i : SlotNo) (b : Bool) (n : ChannelNo) : (s.setHandover i b).counter n = s.counter n := rfl
@[simp] theorem slot_setAudit (s : State) (a : Audit) (n : SlotNo) : (s.setAudit a).slot n = s.slot n := rfl
@[simp] theorem chan_setAudit (s : State) (a : Audit) (n : ChannelNo) : (s.setAudit a).chan n = s.chan n := rfl
@[simp] theorem line_setAudit (s : State) (a : Audit) (n : LineNo) : (s.setAudit a).line n = s.line n := rfl
@[simp] theorem counter_setAudit (s : State) (a : Audit) (n : ChannelNo) : (s.setAudit a).counter n = s.counter n := rfl
@[simp] theorem slot_setIndicator (s : State) (i : IndNo) (d : Indicator) (n : SlotNo) : (s.setIndicator i d).slot n = s.slot n := rfl
@[simp] theorem chan_setIndicator (s : State) (i : IndNo) (d : Indicator) (n : ChannelNo) : (s.setIndicator i d).chan n = s.chan n := rfl
@[simp] theorem line_setIndicator (s : State) (i : IndNo) (d : Indicator) (n : LineNo) : (s.setIndicator i d).line n = s.line n := rfl
@[simp] theorem counter_setIndicator (s : State) (i : IndNo) (d : Indicator) (n : ChannelNo) : (s.setIndicator i d).counter n = s.counter n := rfl
@[simp] theorem chan_setSlotState (s : State) (i : SlotNo) (st : SlotState) (n : ChannelNo) : (s.setSlotState i st).chan n = s.chan n := rfl
@[simp] theorem line_setSlotState (s : State) (i : SlotNo) (st : SlotState) (n : LineNo) : (s.setSlotState i st).line n = s.line n := rfl
@[simp] theorem counter_setSlotState (s : State) (i : SlotNo) (st : SlotState) (n : ChannelNo) : (s.setSlotState i st).counter n = s.counter n := rfl

end Sys2Proof.Machine
end

