-- ==== Sys2Proof/Laws/Frames.lean ====
section
/-!
SUPPORT. Frames: how they compose, and one for each operation of Machine/Ops.lean.
-/

namespace Sys2Proof.Machine

/-! ## Composition -/

theorem Part.same_refl (p : Part) (s : State) : p.same s s := by
  cases p <;> first | exact rfl | exact ⟨rfl, rfl⟩ | exact ⟨rfl, rfl, rfl⟩ | exact fun _ => rfl | exact fun _ => ⟨rfl, rfl⟩

theorem Part.same_trans (p : Part) {s t u : State} (h1 : p.same s t) (h2 : p.same t u) : p.same s u := by
  cases p <;> first
    | exact Eq.trans h2 h1
    | exact ⟨h2.1.trans h1.1, h2.2.trans h1.2⟩
    | exact ⟨h2.1.trans h1.1, h2.2.1.trans h1.2.1, h2.2.2.trans h1.2.2⟩
    | exact fun n => (h2 n).trans (h1 n)
    | exact fun n => ⟨(h2 n).1.trans (h1 n).1, (h2 n).2.trans (h1 n).2⟩

namespace Keeps
variable {fs gs : List Part} {s t u : State}

theorem refl (fs : List Part) (s : State) : Keeps fs s s := fun p _ => p.same_refl s

theorem of_eq (fs : List Part) (h : t = s) : Keeps fs s t := h ▸ refl fs t

theorem trans (h1 : Keeps fs s t) (h2 : Keeps fs t u) : Keeps fs s u := fun p hp => p.same_trans (h1 p hp) (h2 p hp)

theorem mono (h : Keeps fs s t) (hs : ∀ p ∈ fs, p ∈ gs := by decide +kernel) : Keeps gs s t := fun p hp => h p (fun hf => hp (hs p hf))

/-- A part that is not listed is the same. -/
theorem get (h : Keeps fs s t) (p : Part) (hp : p ∉ fs := by decide +kernel) : p.same s t := h p hp

theorem ite {c : Prop} [Decidable c] (h1 : c → Keeps fs s t) (h2 : ¬c → Keeps fs s u) : Keeps fs s (if c then t else u) := by
  by_cases h : c
  · simpa [h] using h1 h
  · simpa [h] using h2 h

theorem foldl {α : Type} (f : State → α → State) (xs : List α) (h : ∀ s x, Keeps fs s (f s x)) (s : State) :
    Keeps fs s (xs.foldl f s) := by
  induction xs generalizing s with
  | nil => exact refl fs s
  | cons x xs ih => exact (h s x).trans (ih (f s x))

end Keeps

/-- A frame with nothing listed is equality: the parts are the whole state. -/
theorem keeps_nil {s t : State} (h : Keeps [] s t) : t = s := by
  have hp : ∀ p : Part, p.same s t := fun p => h p (by simp)
  have hchan : t.channels = s.channels := tbl_ext fun c => by
    have h1 := hp .channelSetup c; have h2 := hp .channelLimits c; have h3 := hp .supply c
    have h4 := hp .selectionHeld c; have h5 := hp .switched c
    simp only [Channel.setup, Channel.supply, Prod.mk.injEq] at h1 h3
    have : t.chan c = s.chan c := by
      cases ht : t.chan c; cases hs : s.chan c
      simp_all
    exact this
  have hslot : t.slots = s.slots := tbl_ext fun i => by
    have h1 := hp .slotState i; have h2 := hp .identity i; have h3 := hp .lastAuth i; have h4 := hp .consumed i
    have h5 := hp .committed i; have h6 := hp .evidence i; have h7 := hp .lowFlag i; have h8 := hp .auditFail i
    have h9 := hp .owedCommit i
    have : t.slot i = s.slot i := by
      cases ht : t.slot i; cases hs : s.slot i
      simp_all
    exact this
  have hlink : t.link = s.link := by
    have h1 := hp .linkState; have h2 := hp .reception; have h3 := hp .bridge; have h4 := hp .headBuffer; have h5 := hp .outgoing
    have h6 := hp .lane; have h7 := hp .headOut; have h8 := hp .laneOut
    simp only [Part.same] at h1 h2 h3 h4 h5 h6 h7 h8
    cases ht : t.link; cases hs : s.link; simp_all
  have htracker : t.tracker = s.tracker := by
    have h1 := hp .openSwath; have h2 := hp .swathRing; have h3 := hp .swathLimit
    simp only [Part.same] at h1 h2 h3
    cases ht : t.tracker; cases hs : s.tracker; simp_all
  have hmeter : t.meter = s.meter := by
    have h1 := hp .headMap; have h2 := hp .unmappedFlags; have h3 := hp .volumeTable; have h4 := hp .counters
    have h5 := hp .debitFlags
    simp only [Part.same] at h1 h2 h3 h4 h5
    cases ht : t.meter; cases hs : s.meter; simp_all
  have hkeys : t.keys = s.keys := by
    have h1 := hp .keyCells; have h2 := hp .keyImage; have h3 := hp .keyWrites
    simp only [Part.same] at h1 h2 h3
    cases ht : t.keys; cases hs : s.keys; simp_all
  have hhistory : t.history = s.history := by
    have h1 := hp .historyCells; have h2 := hp .historyImage; have h3 := hp .historyWrites; have h4 := hp .historyScan
    simp only [Part.same] at h1 h2 h3 h4
    cases ht : t.history; cases hs : s.history; simp_all
  have hschedule : t.schedule = s.schedule := by
    have h1 := hp .scheduleTable; have h2 := hp .scheduleState; have h3 := hp .scheduleTick
    simp only [Part.same] at h1 h2 h3
    cases ht : t.schedule; cases hs : s.schedule; simp_all
  have hevents : t.events = s.events := by
    have h1 := hp .eventQueue; have h2 := hp .routes; have h3 := hp .liveValues; have h4 := hp .latches
    simp only [Part.same] at h1 h2 h3 h4
    cases ht : t.events; cases hs : s.events; simp_all
  have hmgmt : t.mgmt = s.mgmt := by
    have h1 := hp .mode; have h2 := hp .heldMode; have h3 := hp .requests; have h4 := hp .promised; have h5 := hp .resetPending
    have h6 := hp .partTime
    simp only [Part.same] at h1 h2 h3 h4 h5 h6
    cases ht : t.mgmt; cases hs : s.mgmt; simp_all
  have h1 := hp .pending; have h2 := hp .powered; have h3 := hp .freeCount; have h4 := hp .presence; have h5 := hp .handover
  have h6 := hp .testArm; have h7 := hp .denyList; have h8 := hp .nonce; have h9 := hp .lines; have h10 := hp .busOut
  have h11 := hp .audit; have h12 := hp .indicators
  simp only [Part.same] at h1 h2 h3 h4 h5 h6 h7 h8 h9 h10 h11 h12
  cases s; cases t; simp_all

/-! ## Record updates -/

theorem slot_field_same {β : Type} (g : Slot → β) (s : State) (i : SlotNo) (x : Slot) (h : g x = g (s.slot i)) (j : SlotNo) :
    g ((s.setSlot i x).slot j) = g (s.slot j) := by
  rw [slot_setSlot]
  split
  · next e => rw [← e, h]
  · rfl

theorem chan_field_same {β : Type} (g : Channel → β) (s : State) (c : ChannelNo) (x : Channel) (h : g x = g (s.chan c))
    (d : ChannelNo) : g ((s.setChan c x).chan d) = g (s.chan d) := by
  rw [chan_setChan]
  split
  · next e => rw [← e, h]
  · rfl

theorem setSlot_keeps (s : State) (i : SlotNo) (x : Slot) : Keeps Foot.slot s (s.setSlot i x) := by
  intro p hp
  cases p <;> first
    | exact absurd (by decide) hp | exact rfl | exact ⟨rfl, rfl⟩ | exact ⟨rfl, rfl, rfl⟩ | exact fun _ => rfl
    | exact fun _ => ⟨rfl, rfl⟩

/-- An update of a slot record that keeps a given field keeps that part. -/
theorem setSlot_keeps_of (fs : List Part) (s : State) (i : SlotNo) (x : Slot)
    (hst : .slotState ∉ fs → x.state = (s.slot i).state) (hid : .identity ∉ fs → x.identity = (s.slot i).identity)
    (hla : .lastAuth ∉ fs → x.lastAuth = (s.slot i).lastAuth) (hco : .consumed ∉ fs → x.consumed = (s.slot i).consumed)
    (hcm : .committed ∉ fs → x.committed = (s.slot i).committed ∧ x.sequence = (s.slot i).sequence)
    (hev : .evidence ∉ fs → x.evidence = (s.slot i).evidence) (hlo : .lowFlag ∉ fs → x.low = (s.slot i).low)
    (haf : .auditFail ∉ fs → x.auditFail = (s.slot i).auditFail) (hoc : .owedCommit ∉ fs → x.owedCommit = (s.slot i).owedCommit) :
    Keeps fs s (s.setSlot i x) := by
  intro p hp
  cases p <;> first
    | exact rfl | exact ⟨rfl, rfl⟩ | exact ⟨rfl, rfl, rfl⟩ | exact fun _ => rfl
    | exact fun _ => ⟨rfl, rfl⟩ | exact slot_field_same Slot.state s i _ (hst hp)
    | exact slot_field_same Slot.identity s i _ (hid hp) | exact slot_field_same Slot.lastAuth s i _ (hla hp)
    | exact slot_field_same Slot.consumed s i _ (hco hp) | exact slot_field_same Slot.evidence s i _ (hev hp)
    | exact slot_field_same Slot.low s i _ (hlo hp) | exact slot_field_same Slot.auditFail s i _ (haf hp)
    | exact slot_field_same Slot.owedCommit s i _ (hoc hp)
    | exact fun j => ⟨slot_field_same Slot.committed s i _ (hcm hp).1 j, slot_field_same Slot.sequence s i _ (hcm hp).2 j⟩

theorem setSlotState_keeps (s : State) (i : SlotNo) (st : SlotState) : Keeps [.slotState] s (s.setSlotState i st) :=
  setSlot_keeps_of _ s i _ (fun h => absurd (by decide) h) (fun _ => rfl) (fun _ => rfl) (fun _ => rfl) (fun _ => ⟨rfl, rfl⟩)
    (fun _ => rfl) (fun _ => rfl) (fun _ => rfl) (fun _ => rfl)

theorem setChan_keeps_of (fs : List Part) (s : State) (c : ChannelNo) (x : Channel)
    (hset : .channelSetup ∉ fs → x.setup = (s.chan c).setup)
    (hlim : .channelLimits ∉ fs → x.limits = (s.chan c).limits ∧ x.held = (s.chan c).held)
    (hsup : .supply ∉ fs → x.supply = (s.chan c).supply)
    (hsel : .selectionHeld ∉ fs → x.selectionHeld = (s.chan c).selectionHeld)
    (hsw : .switched ∉ fs → x.switched = (s.chan c).switched) : Keeps fs s (s.setChan c x) := by
  intro p hp
  cases p <;> first
    | exact rfl | exact ⟨rfl, rfl⟩ | exact ⟨rfl, rfl, rfl⟩ | exact fun _ => rfl
    | exact fun _ => ⟨rfl, rfl⟩ | exact chan_field_same Channel.setup s c _ (hset hp)
    | exact chan_field_same Channel.supply s c _ (hsup hp) | exact chan_field_same Channel.selectionHeld s c _ (hsel hp)
    | exact chan_field_same Channel.switched s c _ (hsw hp)
    | exact fun j => ⟨chan_field_same Channel.limits s c _ (hlim hp).1 j, chan_field_same Channel.held s c _ (hlim hp).2 j⟩

theorem setLine_keeps (s : State) (l : LineNo) (x : Line) : Keeps [.lines] s (s.setLine l x) := by
  intro p hp
  cases p <;> first
    | exact absurd (by decide) hp | exact rfl | exact ⟨rfl, rfl⟩ | exact ⟨rfl, rfl, rfl⟩ | exact fun _ => rfl
    | exact fun _ => ⟨rfl, rfl⟩

theorem setPresence_keeps (s : State) (i : SlotNo) (x : Presence) : Keeps [.presence] s (s.setPresence i x) := by
  intro p hp
  cases p <;> first
    | exact absurd (by decide) hp | exact rfl | exact ⟨rfl, rfl⟩ | exact ⟨rfl, rfl, rfl⟩ | exact fun _ => rfl
    | exact fun _ => ⟨rfl, rfl⟩

theorem setCounters_keeps (s : State) (c : ChannelNo) (x : Counters) : Keeps [.counters] s (s.setCounters c x) := by
  intro p hp
  cases p <;> first
    | exact absurd (by decide) hp | exact rfl | exact ⟨rfl, rfl⟩ | exact ⟨rfl, rfl, rfl⟩ | exact fun _ => rfl
    | exact fun _ => ⟨rfl, rfl⟩

theorem setHandover_keeps (s : State) (i : SlotNo) (b : Bool) : Keeps [.handover] s (s.setHandover i b) := by
  intro p hp
  cases p <;> first
    | exact absurd (by decide) hp | exact rfl | exact ⟨rfl, rfl⟩ | exact ⟨rfl, rfl, rfl⟩ | exact fun _ => rfl
    | exact fun _ => ⟨rfl, rfl⟩

theorem setAudit_keeps (s : State) (a : Audit) : Keeps [.audit] s (s.setAudit a) := by
  intro p hp
  cases p <;> first
    | exact absurd (by decide) hp | exact rfl | exact ⟨rfl, rfl⟩ | exact ⟨rfl, rfl, rfl⟩ | exact fun _ => rfl
    | exact fun _ => ⟨rfl, rfl⟩

theorem setIndicator_keeps (s : State) (i : IndNo) (d : Indicator) : Keeps [.indicators] s (s.setIndicator i d) := by
  intro p hp
  cases p <;> first
    | exact absurd (by decide) hp | exact rfl | exact ⟨rfl, rfl⟩ | exact ⟨rfl, rfl, rfl⟩ | exact fun _ => rfl
    | exact fun _ => ⟨rfl, rfl⟩

/-! ## Events -/

/-- A notice takes no response's place. -/
theorem responses_placeNotice (n : Notice) (os : List OutFrame) (u : LinkUnit) :
    ({ u with outgoing := placeNotice n os } : LinkUnit).responses = ({ u with outgoing := os } : LinkUnit).responses := by
  induction os with
  | nil => rfl
  | cons o os ih =>
    cases o with
    | response r => simpa [LinkUnit.responses, placeNotice, List.countP_cons] using ih
    | notice m => simp [LinkUnit.responses, placeNotice]

theorem requestNotice_keeps (k : EventKind) (subj : Subject) (s : State) : Keeps Foot.raise s (requestNotice k subj s) := by
  intro p hp
  cases p <;> first
    | exact absurd (by decide) hp | exact rfl | exact ⟨rfl, rfl⟩ | exact ⟨rfl, rfl, rfl⟩ | exact fun _ => rfl
    | exact fun _ => ⟨rfl, rfl⟩ | exact responses_placeNotice _ _ s.link

theorem enqueue_keeps (s : State) (e : Event) : Keeps Foot.raise s { s with events := s.events.enqueue e } := by
  unfold EventUnit.enqueue
  split <;>
  · intro p hp
    cases p <;> first
      | exact absurd (by decide) hp | exact rfl | exact ⟨rfl, rfl⟩ | exact ⟨rfl, rfl, rfl⟩ | exact fun _ => rfl
      | exact fun _ => ⟨rfl, rfl⟩

theorem raise_keeps (k : EventKind) (subj : Subject) (d : Nat) (s : State) : Keeps Foot.raise s (raise k subj d s) := by
  unfold raise
  refine Keeps.ite (fun _ => Keeps.trans ?_ (requestNotice_keeps k subj _)) (fun _ => ?_) <;>
  exact Keeps.ite (fun _ => enqueue_keeps s _) (fun _ => .refl _ s)

/-! ## Condition reports -/

theorem evaluateAll_keeps (s : State) : Keeps [.indicators] s (evaluateAll s) := by
  intro p hp
  cases p <;> first
    | exact absurd (by decide) hp | exact rfl | exact ⟨rfl, rfl⟩ | exact ⟨rfl, rfl, rfl⟩ | exact fun _ => rfl
    | exact fun _ => ⟨rfl, rfl⟩

theorem reportSlot_keeps (s : State) (i : SlotNo) : Keeps Foot.report s (reportSlot s i) := by
  unfold reportSlot
  refine Keeps.ite (fun _ => .refl _ s) (fun _ => Keeps.trans ?_ (evaluateAll_keeps _).mono)
  intro p hp
  cases p <;> first
    | exact absurd (by decide) hp | exact rfl | exact ⟨rfl, rfl⟩ | exact ⟨rfl, rfl, rfl⟩ | exact fun _ => rfl
    | exact fun _ => ⟨rfl, rfl⟩

theorem reportChannelValues_keeps (s : State) (c : ChannelNo) (v : ChannelConds) :
    Keeps Foot.report s (reportChannelValues s c v) := by
  unfold reportChannelValues
  refine Keeps.ite (fun _ => .refl _ s) (fun _ => Keeps.trans ?_ (evaluateAll_keeps _).mono)
  intro p hp
  cases p <;> first
    | exact absurd (by decide) hp | exact rfl | exact ⟨rfl, rfl⟩ | exact ⟨rfl, rfl, rfl⟩ | exact fun _ => rfl
    | exact fun _ => ⟨rfl, rfl⟩

theorem reportMeter_keeps (s : State) (c : ChannelNo) : Keeps Foot.report s (reportMeter s c) := reportChannelValues_keeps s c _

theorem reportSupply_keeps (s : State) (c : ChannelNo) : Keeps Foot.report s (reportSupply s c) := reportChannelValues_keeps s c _

theorem reportChannel_keeps (s : State) (c : ChannelNo) : Keeps Foot.report s (reportChannel s c) :=
  (reportMeter_keeps s c).trans (reportSupply_keeps _ c)

theorem reportConditions_keeps (s : State) : Keeps Foot.report s (reportConditions s) :=
  (Keeps.foldl _ _ reportSlot_keeps s).trans (Keeps.foldl _ _ reportChannel_keeps _)

/-! ## History -/

theorem historyPut_keeps (s : State) (n : HistNo) (e : Option HistoryEntry) :
    Keeps Foot.history s { s with history := s.history.put n e } := by
  intro p hp
  cases p <;> first
    | exact absurd (by decide) hp | exact rfl | exact ⟨rfl, rfl⟩ | exact ⟨rfl, rfl, rfl⟩ | exact fun _ => rfl
    | exact fun _ => ⟨rfl, rfl⟩

theorem updateEntry_keeps (serial : Nat) (f : HistoryEntry → HistoryEntry) (s : State) :
    Keeps Foot.history s (updateEntry serial f s) := by
  unfold updateEntry
  split
  · exact .refl _ s
  · split
    · exact .refl _ s
    · exact historyPut_keeps s _ _

theorem updateHeld_keeps (i : SlotNo) (f : Slot → HistoryEntry → HistoryEntry) (s : State) :
    Keeps Foot.history s (updateHeld i f s) := by
  unfold updateHeld
  dsimp only
  split
  · exact Keeps.ite (fun _ => updateEntry_keeps _ _ s) (fun _ => .refl _ s)
  · exact .refl _ s

theorem historyRemoval_keeps (i : SlotNo) (s : State) : Keeps Foot.history s (historyRemoval i s) := updateHeld_keeps i _ s
theorem historyFault_keeps (i : SlotNo) (s : State) : Keeps Foot.history s (historyFault i s) := updateHeld_keeps i _ s
theorem historyCommit_keeps (i : SlotNo) (s : State) : Keeps Foot.history s (historyCommit i s) := updateHeld_keeps i _ s
theorem historyRetire_keeps (i : SlotNo) (s : State) : Keeps Foot.history s (historyRetire i s) := updateHeld_keeps i _ s

theorem historyEvidence_keeps (serial : Nat) (m : Evidence) (s : State) : Keeps Foot.history s (historyEvidence serial m s) := by
  unfold historyEvidence
  split
  · exact .refl _ s
  · split
    · exact .refl _ s
    · exact Keeps.ite (fun _ => .refl _ s) (fun _ => updateEntry_keeps _ _ s)

theorem historyFirstPass_keeps (id : Identity) (q c consumed : Nat) (s : State) :
    Keeps (Foot.raise ++ Foot.history) s (historyFirstPass id q c consumed s) := by
  unfold historyFirstPass
  split
  · exact (updateEntry_keeps _ _ s).mono
  · dsimp only
    split
    · exact (historyPut_keeps s _ _).mono
    · split
      · exact .refl _ s
      · exact (historyPut_keeps s _ _).mono.trans (raise_keeps _ _ _ _).mono

theorem kickHistory_keeps (s : State) : Keeps [.historyWrites] s (kickHistory s) := by
  unfold kickHistory
  refine Keeps.ite (fun _ => .refl _ s) (fun _ => ?_)
  split
  · exact .refl _ s
  · intro p hp
    cases p <;> first
      | exact absurd (by decide) hp | exact rfl | exact ⟨rfl, rfl⟩ | exact ⟨rfl, rfl, rfl⟩ | exact fun _ => rfl
      | exact fun _ => ⟨rfl, rfl⟩

/-! ## The end of a step -/

theorem kickLane_keeps (s : State) : Keeps Foot.lane s (kickLane s) := by
  unfold kickLane LinkUnit.arbitrate
  repeat' split
  all_goals
    intro p hp
    cases p <;> first
      | exact absurd (by decide) hp | exact rfl | exact ⟨rfl, rfl⟩ | exact ⟨rfl, rfl, rfl⟩ | exact fun _ => rfl
      | exact fun _ => ⟨rfl, rfl⟩

theorem settle_keeps (s : State) : Keeps Foot.settle s (settle s) :=
  ((reportConditions_keeps s).mono.trans (kickHistory_keeps _).mono).trans (kickLane_keeps _).mono

theorem finish_keeps (c : Instr) (s : State) : Keeps Foot.settle s (finish c s) :=
  Keeps.ite (fun _ => settle_keeps s) (fun _ => (kickLane_keeps s).mono)

/-! ## Requests -/

theorem placeResponse_keeps (r : Response) (s : State) : Keeps [.responses, .outgoing] s (placeResponse r s) := by
  intro p hp
  cases p <;> first
    | exact absurd (by decide) hp | exact rfl | exact ⟨rfl, rfl⟩ | exact ⟨rfl, rfl, rfl⟩ | exact fun _ => rfl
    | exact fun _ => ⟨rfl, rfl⟩

theorem respond_keeps (tag : Byte) (kind : BitVec 16) (st : Status) (res : List Byte) (s : State) :
    Keeps Foot.answer s (respond tag kind st res s) := by
  intro p hp
  cases p <;> first
    | exact absurd (by decide) hp | exact rfl | exact ⟨rfl, rfl⟩ | exact ⟨rfl, rfl, rfl⟩ | exact fun _ => rfl
    | exact fun _ => ⟨rfl, rfl⟩

theorem reply_keeps (r : Request) (st : Status) (res : List Byte) (s : State) : Keeps Foot.answer s (r.reply st res s) :=
  respond_keeps r.tag r.kind st res s

theorem takeRequest_keeps (rest : List Request) (s : State) : Keeps [.requests, .promised] s (takeRequest rest s) := by
  intro p hp
  cases p <;> first
    | exact absurd (by decide) hp | exact rfl | exact ⟨rfl, rfl⟩ | exact ⟨rfl, rfl, rfl⟩ | exact fun _ => rfl
    | exact fun _ => ⟨rfl, rfl⟩

theorem serving_keeps {fs : List Part} (code : Nat) (carry : Request → State → State) (s : State)
    (h : ∀ r t, Keeps fs t (carry r t)) (hf : .requests ∈ fs ∧ .promised ∈ fs := by decide) :
    Keeps fs s (serving code carry s) := by
  unfold serving
  split
  · exact .refl _ s
  · refine Keeps.ite (fun _ => Keeps.trans ((takeRequest_keeps _ s).mono ?_) (h _ _)) (fun _ => .refl _ s)
    intro p hp
    rcases List.mem_cons.1 hp with rfl | hp
    · exact hf.1
    · rcases List.mem_cons.1 hp with rfl | hp
      · exact hf.2
      · simp at hp

theorem withArgs_keeps {fs : List Part} (ws : List Nat) (carry : List Nat → Request → State → State) (r : Request) (s : State)
    (h : ∀ vs r t, Keeps fs t (carry vs r t)) (hf : ∀ p ∈ Foot.answer, p ∈ fs := by decide +kernel) :
    Keeps fs s (withArgs ws carry r s) := by
  unfold withArgs
  split
  · exact h _ _ _
  · exact (reply_keeps _ _ _ _).mono hf

end Sys2Proof.Machine
end

