-- ==== Sys2Proof/Laws/SupplyFrames.lean ====
section
/-!
SUPPORT. What each operation of Machine/Bus.lean and Machine/Supply.lean may change.
-/

namespace Sys2Proof.Machine

/-! ## Lines, owed commits, the end of an audit -/

theorem place_keeps (i : SlotNo) (k : TxKind) (o : Origin) (rec : Option RecNo) (s : State) :
    Keeps [.lines] s (place i k o rec s).1 := setLine_keeps s _ _

theorem request_keeps (i : SlotNo) (k : TxKind) (s : State) : Keeps [.lines] s (request i k s) := place_keeps i k _ _ s

theorem setOwedCommit_keeps (i : SlotNo) (b : Bool) (s : State) : Keeps [.owedCommit] s (setOwedCommit i b s) :=
  setSlot_keeps_of _ s i _ (fun _ => rfl) (fun _ => rfl) (fun _ => rfl) (fun _ => rfl) (fun _ => ⟨rfl, rfl⟩) (fun _ => rfl)
    (fun _ => rfl) (fun _ => rfl) (fun h => absurd (by decide) h)

theorem serveOwedCommit_keeps (i : SlotNo) (s : State) : Keeps Foot.owed s (serveOwedCommit i s) := by
  unfold serveOwedCommit
  dsimp only
  repeat' (refine Keeps.ite (fun _ => ?_) (fun _ => ?_))
  · exact .refl _ s
  · exact .refl _ s
  · exact .refl _ s
  · exact (setOwedCommit_keeps i _ s).mono
  · exact (setOwedCommit_keeps i _ s).mono.trans (request_keeps i _ _).mono
  · exact (setOwedCommit_keeps i _ s).mono

theorem withdrawSlot_keeps (i : SlotNo) (s : State) : Keeps Foot.owed s (withdrawSlot i s) := by
  unfold withdrawSlot
  dsimp only
  exact Keeps.ite (fun _ => (setLine_keeps s _ _).mono.trans (serveOwedCommit_keeps i _)) (fun _ => (setLine_keeps s _ _).mono)

theorem withdrawRead_keeps (i : SlotNo) (s : State) : Keeps [.lines] s (withdrawRead i s) := setLine_keeps s _ _

theorem auditEnd_keeps (r : Option AbortReason) (s : State) : Keeps Foot.commit s (auditEnd r s) := by
  unfold auditEnd
  split
  · exact .refl _ s
  · exact (((setAudit_keeps s _).mono.trans (withdrawRead_keeps _ _).mono).trans (serveOwedCommit_keeps _ _).mono).trans
      (raise_keeps _ _ _ _).mono

theorem pressureTest_keeps (i : SlotNo) (s : State) : Keeps Foot.commit s (pressureTest i s) :=
  Keeps.ite (fun _ => (setOwedCommit_keeps i _ s).mono.trans (auditEnd_keeps _ _)) (fun _ => .refl _ s)

theorem trigger_keeps (i : SlotNo) (o : Origin) (s : State) : Keeps Foot.commit s (trigger i o s).1 := by
  unfold trigger
  split
  · exact .refl _ s
  · split
    · exact (setOwedCommit_keeps i _ s).mono.trans (pressureTest_keeps i _)
    · split
      · exact (setOwedCommit_keeps i _ s).mono
      · exact (place_keeps i _ _ _ s).mono

theorem triggerIfBehind_keeps (i : SlotNo) (s : State) : Keeps Foot.commit s (triggerIfBehind i s) :=
  Keeps.ite (fun _ => trigger_keeps i _ s) (fun _ => .refl _ s)

theorem stepTrigger_keeps (i : SlotNo) (s : State) : Keeps Foot.commit s (stepTrigger i s) :=
  Keeps.ite (fun _ => trigger_keeps i _ s) (fun _ => .refl _ s)

theorem modeTriggers_keeps (s : State) : Keeps Foot.commit s (modeTriggers s) :=
  Keeps.foldl _ _ (fun t i => triggerIfBehind_keeps i t) s

/-! ## Selection runs and reports -/

theorem retireCheck_keeps (i : SlotNo) (s : State) : Keeps [.handover] s (retireCheck i s) :=
  Keeps.ite (fun _ => setHandover_keeps s i _) (fun _ => .refl _ s)

theorem runEvent_keeps (c : ChannelNo) (was : Channel) (next : Option SlotNo) (s : State) :
    Keeps Foot.raise s (runEvent c was next s) := by
  unfold runEvent
  split
  · exact Keeps.ite (fun _ => .refl _ s) (fun _ => raise_keeps _ _ _ s)
  · exact raise_keeps _ _ _ s
  · exact raise_keeps _ _ _ s
  · exact Keeps.ite (fun _ => raise_keeps _ _ _ s) (fun _ => .refl _ s)

theorem applyRun_keeps (c : ChannelNo) (s : State) : Keeps Foot.run s (applyRun c s) := by
  unfold applyRun
  dsimp only
  refine Keeps.ite (fun _ => ?_) (fun _ => ?_)
  · refine Keeps.trans ?_ (reportSupply_keeps _ c).mono
    exact setChan_keeps_of _ s c _ (fun _ => rfl) (fun _ => ⟨rfl, rfl⟩) (fun h => absurd (by decide) h) (fun _ => rfl)
      (fun _ => rfl)
  · have h1 : Keeps Foot.run s (s.setChan c
        { s.chan c with
            active := choose s (s.chan c)
            state := if (choose s (s.chan c)).isSome = true then ChannelState.feeding else ChannelState.starved
            gate := gateFor s.mgmt.mode (if (choose s (s.chan c)).isSome = true then ChannelState.feeding else ChannelState.starved)
            switched := (s.chan c).switched || (s.chan c).active != choose s (s.chan c) }) :=
      setChan_keeps_of _ s c _ (fun _ => rfl) (fun _ => ⟨rfl, rfl⟩) (fun h => absurd (by decide) h) (fun _ => rfl)
        (fun h => absurd (by decide) h)
    have h2 := (h1.trans (reportSupply_keeps _ c).mono).trans (runEvent_keeps c (s.chan c) (choose s (s.chan c)) _).mono
    split
    · exact Keeps.ite (fun _ => h2) (fun _ => h2.trans (retireCheck_keeps _ _).mono)
    · exact h2

theorem selectionRun_keeps (c : ChannelNo) (s : State) : Keeps Foot.run s (selectionRun c s) :=
  Keeps.ite (fun _ => setChan_keeps_of _ s c _ (fun _ => rfl) (fun _ => ⟨rfl, rfl⟩) (fun _ => rfl) (fun h => absurd (by decide) h)
    (fun _ => rfl)) (fun _ => applyRun_keeps c s)

theorem runAll_keeps (s : State) : Keeps Foot.run s (runAll s) := Keeps.foldl _ _ (fun t c => selectionRun_keeps c t) s

theorem auditCheck_keeps (i : SlotNo) (s : State) : Keeps Foot.commit s (auditCheck i s) := by
  unfold auditCheck
  dsimp only
  repeat' (refine Keeps.ite (fun _ => ?_) (fun _ => ?_))
  · exact .refl _ s
  · exact auditEnd_keeps _ s
  · exact auditEnd_keeps _ s
  · exact .refl _ s

theorem slotChecks_keeps (i : SlotNo) (s : State) : Keeps Foot.changed s (slotChecks i s) :=
  (auditCheck_keeps i s).mono.trans (retireCheck_keeps i _).mono

theorem slotReported_keeps (i : SlotNo) (s : State) : Keeps Foot.changed s (slotReported i s) :=
  (reportSlot_keeps s i).mono.trans (slotChecks_keeps i _)

theorem runFor_keeps (i : SlotNo) (s : State) : Keeps Foot.run s (runFor i s) := by
  unfold runFor
  split
  · exact selectionRun_keeps _ s
  · exact .refl _ s

theorem slotChanged_keeps (i : SlotNo) (s : State) : Keeps Foot.changed s (slotChanged i s) :=
  ((reportSlot_keeps s i).mono.trans (runFor_keeps i _).mono).trans (slotChecks_keeps i _)

/-! ## Levels, evidence, rejection, faults -/

theorem lowCheck_keeps (i : SlotNo) (low : Nat) (s : State) :
    Keeps (.lowFlag :: Foot.raise ++ Foot.report) s (lowCheck i low s) := by
  refine Keeps.ite (fun _ => Keeps.trans (Keeps.trans ?_ (reportSlot_keeps _ i).mono) (raise_keeps _ _ _ _).mono)
    (fun _ => .refl _ s)
  exact setSlot_keeps_of _ s i _ (fun _ => rfl) (fun _ => rfl) (fun _ => rfl) (fun _ => rfl) (fun _ => ⟨rfl, rfl⟩) (fun _ => rfl)
    (fun h => absurd (by decide) h) (fun _ => rfl) (fun _ => rfl)

theorem levelCheckCore_keeps (i : SlotNo) (lim : Limits) (s : State) : Keeps Foot.level s (levelCheckCore i lim s).1 := by
  unfold levelCheckCore
  dsimp only
  split
  · exact .refl _ s
  · split
    · split
      · exact ((lowCheck_keeps i _ s).mono.trans (setSlotState_keeps _ i _).mono).trans (raise_keeps _ _ _ _).mono
      · exact (lowCheck_keeps i _ s).mono
    · exact (lowCheck_keeps i _ s).mono

theorem levelCheck_keeps (i : SlotNo) (s : State) : Keeps Foot.checked s (levelCheck i s) :=
  Keeps.ite (fun _ => (levelCheckCore_keeps i _ s).mono.trans (slotChanged_keeps i _).mono)
    (fun _ => (levelCheckCore_keeps i _ s).mono)

theorem growEvidence_keeps (i : SlotNo) (m : Evidence) (s : State) :
    Keeps (.evidence :: Foot.raise ++ Foot.report) s (growEvidence i m s) := by
  refine Keeps.trans (Keeps.trans ?_ (reportSlot_keeps _ i).mono) (raise_keeps _ _ _ _).mono
  exact setSlot_keeps_of _ s i _ (fun _ => rfl) (fun _ => rfl) (fun _ => rfl) (fun _ => rfl) (fun _ => ⟨rfl, rfl⟩)
    (fun h => absurd (by decide) h) (fun _ => rfl) (fun _ => rfl) (fun _ => rfl)

theorem addEvidenceCore_keeps (i : SlotNo) (m : Evidence) (passing : Bool) (s : State) :
    Keeps Foot.evidence s (addEvidenceCore i m passing s).1 := by
  unfold addEvidenceCore
  dsimp only
  split
  · exact .refl _ s
  · have h1 : Keeps Foot.evidence s (growEvidence i m s) := (growEvidence_keeps i m s).mono
    have h2 : Keeps Foot.evidence s (match (s.slot i).serial? with
        | some serial => if (s.slot i).holds || passing then historyEvidence serial m (growEvidence i m s) else growEvidence i m s
        | none => growEvidence i m s) := by
      split
      · exact Keeps.ite (fun _ => h1.trans (historyEvidence_keeps _ _ _).mono) (fun _ => h1)
      · exact h1
    split
    · exact h2.trans (setSlotState_keeps _ i _).mono
    · exact h2

theorem addEvidence_keeps (i : SlotNo) (m : Evidence) (s : State) :
    Keeps (Foot.evidence ++ Foot.changed) s (addEvidence i m s) :=
  Keeps.ite (fun _ => (addEvidenceCore_keeps i m _ s).mono.trans (slotChanged_keeps i _).mono)
    (fun _ => (addEvidenceCore_keeps i m _ s).mono)

theorem rejectCore_keeps (i : SlotNo) (r : RejectReason) (s : State) : Keeps Foot.reject s (rejectCore i r s) :=
  ((setSlotState_keeps s i _).mono.trans (withdrawSlot_keeps i _).mono).trans (raise_keeps _ _ _ _).mono

theorem reject_keeps (i : SlotNo) (r : RejectReason) (s : State) : Keeps (Foot.reject ++ Foot.changed) s (reject i r s) :=
  (rejectCore_keeps i r s).mono.trans (slotChanged_keeps i _).mono

theorem faultCore_keeps (i : SlotNo) (r : FaultReason) (k : TxKind) (s : State) :
    Keeps (Foot.reject ++ Foot.history) s (faultCore i r k s) :=
  (((setSlotState_keeps s i _).mono.trans (withdrawSlot_keeps i _).mono).trans (historyFault_keeps i _).mono).trans
    (raise_keeps _ _ _ _).mono

/-! ## Debits -/

theorem overdrawFlag_keeps (s : State) (c : ChannelNo) :
    Keeps [.debitFlags] s { s with meter := { s.meter with overdrawReported := upd s.meter.overdrawReported c true } } := by
  intro p hp
  cases p <;> first
    | exact absurd (by decide) hp | exact rfl | exact ⟨rfl, rfl⟩ | exact ⟨rfl, rfl, rfl⟩ | exact fun _ => rfl
    | exact fun _ => ⟨rfl, rfl⟩

theorem unattributedFlag_keeps (s : State) (c : ChannelNo) :
    Keeps [.debitFlags] s { s with meter := { s.meter with unattributedReported := upd s.meter.unattributedReported c true } } := by
  intro p hp
  cases p <;> first
    | exact absurd (by decide) hp | exact rfl | exact ⟨rfl, rfl⟩ | exact ⟨rfl, rfl, rfl⟩ | exact fun _ => rfl
    | exact fun _ => ⟨rfl, rfl⟩

theorem reportOverdraw_keeps (c : ChannelNo) (a : Option SlotNo) (n : Nat) (s : State) :
    Keeps (.debitFlags :: Foot.raise) s (reportOverdraw c a n s) :=
  Keeps.ite (fun _ => .refl _ s) (fun _ => (overdrawFlag_keeps s c).mono.trans (raise_keeps _ _ _ _).mono)

theorem reportUnattributed_keeps (c : ChannelNo) (a : Option SlotNo) (n : Nat) (s : State) :
    Keeps (.debitFlags :: Foot.raise) s (reportUnattributed c a n s) :=
  Keeps.ite (fun _ => .refl _ s) (fun _ => (unattributedFlag_keeps s c).mono.trans (raise_keeps _ _ _ _).mono)

theorem afterDebit_keeps (i : SlotNo) (s : State) : Keeps Foot.checked s (afterDebit i s) :=
  ((levelCheck_keeps i s).trans (stepTrigger_keeps i _).mono).trans (pressureTest_keeps i _).mono

theorem debit_keeps (c : ChannelNo) (d : Nat) (s : State) : Keeps Foot.debit s (debit c d s) := by
  unfold debit
  dsimp only
  refine Keeps.ite (fun _ => .refl _ s) (fun _ => ?_)
  have h1 : ∀ k, Keeps Foot.debit s (s.setCounters c k) := fun k => (setCounters_keeps s c k).mono
  have h2 : ∀ (i : SlotNo) (k : Counters) (n : Nat), Keeps Foot.debit s
      ((s.setCounters c k).setSlot i { (s.setCounters c k).slot i with consumed := n }) := fun i k n =>
    (h1 k).trans (setSlot_keeps_of _ _ i _ (fun _ => rfl) (fun _ => rfl) (fun _ => rfl) (fun h => absurd (by decide) h)
      (fun _ => ⟨rfl, rfl⟩) (fun _ => rfl) (fun _ => rfl) (fun _ => rfl) (fun _ => rfl))
  split
  · refine Keeps.ite (fun _ => ?_) (fun _ => Keeps.trans ?_ (afterDebit_keeps _ _).mono) <;>
    refine Keeps.trans (Keeps.trans (Keeps.trans (Keeps.ite (fun _ => h1 _) (fun _ => h2 _ _ _)) (reportMeter_keeps _ c).mono)
      (reportOverdraw_keeps _ _ _ _).mono) (reportUnattributed_keeps _ _ _ _).mono
  · exact (((h1 _).trans (reportMeter_keeps _ c).mono).trans (reportOverdraw_keeps _ _ _ _).mono).trans
      (reportUnattributed_keeps _ _ _ _).mono

theorem addVolume_keeps (c : ChannelNo) (v : Nat) (s : State) : Keeps Foot.debit s (addVolume c v s) :=
  (setCounters_keeps s c _).mono.trans (debit_keeps c _ _)

end Sys2Proof.Machine
end

