-- ==== Sys2Proof/Laws/SwathFrames.lean ====
section
/-!
SUPPORT. What mode changes, the opening and the close of a swath, and the audit's and the transactions' operations may change.
-/

namespace Sys2Proof.Machine

/-! ## Modes -/

theorem takeMode_keeps (m : Mode) (s : State) : Keeps (.mode :: Foot.raise) s (takeMode m s) := by
  refine Keeps.trans ?_ (raise_keeps _ _ _ _).mono
  intro p hp
  cases p <;> first
    | exact absurd (by decide) hp | exact rfl | exact ⟨rfl, rfl⟩ | exact ⟨rfl, rfl, rfl⟩ | exact fun _ => rfl
    | exact fun _ => ⟨rfl, rfl⟩

theorem chan_tab (s : State) (f : ChannelNo → Channel) (c : ChannelNo) : ({ s with channels := tab f } : State).chan c = f c := by
  simp [State.chan]

theorem closeGates_keeps (s : State) : Keeps [.supply] s (closeGates s) := by
  intro p hp
  cases p <;> first
    | exact absurd (by decide) hp | exact rfl | exact ⟨rfl, rfl⟩ | exact ⟨rfl, rfl, rfl⟩ | exact fun _ => rfl
    | exact fun _ => ⟨rfl, rfl⟩ | (intro c; simp only [closeGates, chan_tab]; exact rfl)
    | (intro c; simp only [closeGates, chan_tab]; exact ⟨rfl, rfl⟩)

theorem clearSwitched_keeps (s : State) : Keeps (.switched :: Foot.report) s (clearSwitched s) := by
  refine Keeps.trans (Keeps.mono (fs := [.switched]) ?_) (Keeps.foldl _ _ reportSupply_keeps _).mono
  intro p hp
  cases p <;> first
    | exact absurd (by decide) hp | exact rfl | exact ⟨rfl, rfl⟩ | exact ⟨rfl, rfl, rfl⟩ | exact fun _ => rfl
    | exact fun _ => ⟨rfl, rfl⟩ | (intro c; simp only [chan_tab]; exact rfl)
    | (intro c; simp only [chan_tab]; exact ⟨rfl, rfl⟩)

theorem applyMode_keeps (m : Mode) (s : State) : Keeps Foot.mode s (applyMode m s) := by
  unfold applyMode
  dsimp only
  refine Keeps.trans (Keeps.ite (fun _ => ?_) (fun _ => (takeMode_keeps m s).mono)) (runAll_keeps _).mono
  exact ((takeMode_keeps m s).mono.trans (closeGates_keeps _).mono).trans (modeTriggers_keeps _).mono

theorem clearHeldMode_keeps (s : State) : Keeps [.heldMode] s { s with mgmt := { s.mgmt with heldMode := none } } := by
  intro p hp
  cases p <;> first
    | exact absurd (by decide) hp | exact rfl | exact ⟨rfl, rfl⟩ | exact ⟨rfl, rfl, rfl⟩ | exact fun _ => rfl
    | exact fun _ => ⟨rfl, rfl⟩

theorem applyHeldMode_keeps (s : State) : Keeps (.heldMode :: Foot.mode) s (applyHeldMode s) := by
  unfold applyHeldMode
  split
  · exact .refl _ s
  · exact Keeps.ite (fun _ => (clearHeldMode_keeps s).mono) (fun _ => (clearHeldMode_keeps s).mono.trans (applyMode_keeps _ _).mono)

/-! ## Swaths -/

theorem trackerClose_keeps (o : SwathOutcome) (w : OpenSwath) (s : State) :
    Keeps ([.openSwath, .swathRing, .swathLimit] ++ Foot.raise) s (trackerClose o w s) := by
  unfold trackerClose
  dsimp only
  have h1 : Keeps ([.openSwath, .swathRing, .swathLimit] ++ Foot.raise) s { s with tracker :=
      { s.tracker with ring := (o.recordOf w :: s.tracker.ring).take 16, closes := (s.tracker.closes + 1) % 2 ^ 32 } } := by
    intro p hp
    cases p <;> first
      | exact absurd (by decide) hp | exact rfl | exact ⟨rfl, rfl⟩ | exact ⟨rfl, rfl, rfl⟩ | exact fun _ => rfl
      | exact fun _ => ⟨rfl, rfl⟩
  have h2 : Keeps ([.openSwath, .swathRing, .swathLimit] ++ Foot.raise) s (if o = .closed then { s with tracker :=
      { s.tracker with ring := (o.recordOf w :: s.tracker.ring).take 16, closes := (s.tracker.closes + 1) % 2 ^ 32 } }
      else raise .swathIrregular .none (o.no * 65536 + w.id) { s with tracker :=
      { s.tracker with ring := (o.recordOf w :: s.tracker.ring).take 16, closes := (s.tracker.closes + 1) % 2 ^ 32 } }) :=
    Keeps.ite (fun _ => h1) (fun _ => h1.trans (raise_keeps _ _ _ _).mono)
  refine h2.trans ?_
  intro p hp
  cases p <;> first
    | exact absurd (by decide) hp | exact rfl | exact ⟨rfl, rfl⟩ | exact ⟨rfl, rfl, rfl⟩ | exact fun _ => rfl
    | exact fun _ => ⟨rfl, rfl⟩

theorem applyLimits_keeps (c : ChannelNo) (lim : Limits) (s : State) :
    Keeps (.channelLimits :: Foot.checked) s (applyLimits c lim s) := by
  refine Keeps.trans ?_ (Keeps.foldl _ _ (fun t i => Keeps.ite (fun _ => (levelCheck_keeps i t).mono) (fun _ => .refl _ t)) _)
  exact setChan_keeps_of _ s c _ (fun _ => rfl) (fun h => absurd (by decide) h) (fun _ => rfl) (fun _ => rfl) (fun _ => rfl)

theorem applyHeldLimits_keeps (s : State) (c : ChannelNo) : Keeps (.channelLimits :: Foot.checked) s (applyHeldLimits s c) := by
  unfold applyHeldLimits
  split
  · exact applyLimits_keeps c _ s
  · exact .refl _ s

theorem applyHeldRun_keeps (s : State) (c : ChannelNo) : Keeps Foot.run s (applyHeldRun s c) := by
  refine Keeps.ite (fun _ => Keeps.trans ?_ (applyRun_keeps c _)) (fun _ => .refl _ s)
  exact setChan_keeps_of _ s c _ (fun _ => rfl) (fun _ => ⟨rfl, rfl⟩) (fun _ => rfl) (fun h => absurd (by decide) h) (fun _ => rfl)

theorem clearReported_keeps (s : State) : Keeps [.unmappedFlags, .debitFlags] s (clearReported s) := by
  intro p hp
  cases p <;> first
    | exact absurd (by decide) hp | exact rfl | exact ⟨rfl, rfl⟩ | exact ⟨rfl, rfl, rfl⟩ | exact fun _ => rfl
    | exact fun _ => ⟨rfl, rfl⟩

theorem applyStaged_keeps (s : State) : Keeps [.volumeTable] s (applyStaged s) := by
  refine Keeps.ite (fun _ => ?_) (fun _ => .refl _ s)
  intro p hp
  cases p <;> first
    | exact absurd (by decide) hp | exact rfl | exact ⟨rfl, rfl⟩ | exact ⟨rfl, rfl, rfl⟩ | exact fun _ => rfl
    | exact fun _ => ⟨rfl, rfl⟩

theorem applyHeld_keeps (s : State) : Keeps Foot.close s (applyHeld s) := by
  have h1 : Keeps Foot.close s ((List.finRange 8).foldl applyHeldLimits (clearSwitched s)) :=
    (clearSwitched_keeps s).mono.trans (Keeps.foldl _ _ applyHeldLimits_keeps _).mono
  have h2 := h1.trans (Keeps.foldl _ (List.finRange 8) applyHeldRun_keeps _).mono
  exact ((h2.trans (applyStaged_keeps _).mono).trans (clearReported_keeps _).mono).trans (applyHeldMode_keeps _).mono

theorem closeSwath_keeps (o : SwathOutcome) (s : State) : Keeps Foot.close s (closeSwath o s) := by
  unfold closeSwath
  split
  · exact .refl _ s
  · exact (trackerClose_keeps o _ s).mono.trans (applyHeld_keeps _)

theorem openSwath_keeps (id : Nat) (s : State) : Keeps [.openSwath, .unmappedFlags, .debitFlags] s (openSwath id s) := by
  refine Keeps.trans ?_ (clearReported_keeps _).mono
  intro p hp
  cases p <;> first
    | exact absurd (by decide) hp | exact rfl | exact ⟨rfl, rfl⟩ | exact ⟨rfl, rfl, rfl⟩ | exact fun _ => rfl
    | exact fun _ => ⟨rfl, rfl⟩

/-! ## STANDBY -/

theorem haltSchedule_keeps (s : State) : Keeps [.scheduleState] s (haltSchedule s) := by
  intro p hp
  cases p <;> first
    | exact absurd (by decide) hp | exact rfl | exact ⟨rfl, rfl⟩ | exact ⟨rfl, rfl, rfl⟩ | exact fun _ => rfl
    | exact fun _ => ⟨rfl, rfl⟩

theorem linesUpdate_keeps (s : State) (f : LineNo → Line) : Keeps [.lines] s { s with lines := tab f } := by
  intro p hp
  cases p <;> first
    | exact absurd (by decide) hp | exact rfl | exact ⟨rfl, rfl⟩ | exact ⟨rfl, rfl, rfl⟩ | exact fun _ => rfl
    | exact fun _ => ⟨rfl, rfl⟩

theorem auditModeAbort_keeps (s : State) : Keeps Foot.commit s (auditModeAbort s) :=
  Keeps.ite (fun _ => auditEnd_keeps _ s) (fun _ => .refl _ s)

theorem enterStandby_keeps (s : State) : Keeps (.scheduleState :: Foot.close) s (enterStandby s) := by
  have h1 : Keeps (.scheduleState :: Foot.close) s (closeGates (takeMode .standby (closeSwath .aborted s))) :=
    ((closeSwath_keeps _ s).mono.trans (takeMode_keeps _ _).mono).trans (closeGates_keeps _).mono
  have h2 := (h1.trans (modeTriggers_keeps _).mono).trans (auditModeAbort_keeps _).mono
  exact ((h2.trans (haltSchedule_keeps _).mono).trans (runAll_keeps _).mono).trans (linesUpdate_keeps _ _).mono

theorem wakeSlot_keeps (s : State) (i : SlotNo) : Keeps ([.presence, .slotState] ++ Foot.changed) s (wakeSlot s i) := by
  unfold wakeSlot
  dsimp only
  split
  · exact (setSlotState_keeps s i _).mono.trans (slotReported_keeps i _).mono
  · refine Keeps.ite (fun _ => ?_) (fun _ => .refl _ s)
    exact ((((setPresence_keeps s i _).mono.trans (setSlotState_keeps _ i _).mono).trans (raise_keeps _ _ _ _).mono).trans
      (request_keeps i _ _).mono).trans (slotReported_keeps i _).mono
  · split
    · exact ((setSlotState_keeps s i _).mono.trans (request_keeps i _ _).mono).trans (slotReported_keeps i _).mono
    · exact .refl _ s

theorem wake_keeps (m : Mode) (s : State) : Keeps Foot.wake s (wake m s) := by
  have h1 : Keeps Foot.wake s ((List.finRange 16).foldl wakeSlot s) := (Keeps.foldl _ _ wakeSlot_keeps s).mono
  exact ((h1.trans (takeMode_keeps m _).mono).trans (runAll_keeps _).mono).trans (linesUpdate_keeps _ _).mono

/-! ## Audit passes -/

theorem setPass_keeps (p : AuditPass) (s : State) : Keeps [.audit] s (setPass p s) := setAudit_keeps s _

theorem placeRead_keeps (s : State) : Keeps Foot.read s (placeRead s) := by
  unfold placeRead
  split
  · split
    · exact Keeps.ite (fun _ => (setPass_keeps _ s).mono.trans (place_keeps _ _ _ _ _).mono) (fun _ => .refl _ s)
    · exact .refl _ s
  · exact .refl _ s

theorem beginPass_keeps (s : State) : Keeps Foot.read s (beginPass s) := (setPass_keeps _ s).mono.trans (placeRead_keeps _)

theorem nextPass_keeps (s : State) : Keeps Foot.read s (nextPass s) :=
  Keeps.trans (Keeps.ite (fun _ => .refl _ s) (fun _ => (setAudit_keeps s _).mono)) (beginPass_keeps _)

theorem startAudit_keeps (i : SlotNo) (m : AuditMode) (acc : Bool) (s : State) : Keeps Foot.read s (startAudit i m acc s) :=
  (setAudit_keeps s _).mono.trans (beginPass_keeps _)

theorem auditFailure_keeps (n : RecNo) (k : FailureKind) (s : State) : Keeps Foot.finding s (auditFailure n k s) := by
  unfold auditFailure
  dsimp only
  split
  · exact .refl _ s
  · next i _ =>
    have h0 : ∀ t : State, Keeps Foot.finding t (t.setSlot i { t.slot i with auditFail := true }) := fun t =>
      setSlot_keeps_of _ t i _ (fun _ => rfl) (fun _ => rfl) (fun _ => rfl) (fun _ => rfl) (fun _ => ⟨rfl, rfl⟩) (fun _ => rfl)
        (fun _ => rfl) (fun h => absurd (by decide) h) (fun _ => rfl)
    have h1 := fun a => ((setAudit_keeps s a).mono (gs := Foot.finding)).trans
      ((addEvidence_keeps i .recordIntegrity (s.setAudit a)).mono (gs := Foot.finding))
    have h2 := fun a => ((h1 a).trans (h0 _)).trans ((reportSlot_keeps _ i).mono (gs := Foot.finding))
    refine Keeps.ite (fun _ => ?_) (fun _ => ?_)
    · exact ((h2 _).trans (setAudit_keeps _ _).mono).trans (raise_keeps _ _ _ _).mono
    · exact h2 _

theorem passEnd_keeps (s : State) : Keeps Foot.commit s (passEnd s) := by
  unfold passEnd
  dsimp only
  have h1 := fun a => (setAudit_keeps s a).mono (gs := Foot.commit)
  split
  · exact (h1 _).trans (auditEnd_keeps _ _)
  · exact (h1 _).trans (auditEnd_keeps _ _)
  · exact (h1 _).trans (nextPass_keeps _).mono
  · split
    · exact (h1 _).trans (setPass_keeps _ _).mono
    · exact h1 _

theorem sequenceCheck_keeps (s : State) : Keeps Foot.finding s (sequenceCheck s) := by
  unfold sequenceCheck
  split
  · split
    · split
      · exact (passEnd_keeps s).mono
      · split
        · exact (auditFailure_keeps _ _ s).trans (passEnd_keeps _).mono
        · exact (passEnd_keeps s).mono
    · exact .refl _ s
  · exact .refl _ s

theorem auditContinue_keeps (s : State) : Keeps Foot.finding s (auditContinue s) := by
  unfold auditContinue
  split
  · split
    · exact (placeRead_keeps s).mono
    · exact sequenceCheck_keeps s
    · exact Keeps.ite (fun _ => (nextPass_keeps s).mono) (fun _ => .refl _ s)
  · exact .refl _ s

theorem readOutcome_keeps (i : SlotNo) (n : RecNo) (r : Option (List Byte)) (s : State) :
    Keeps Foot.finding s (readOutcome i n r s) := by
  unfold readOutcome
  split
  · exact .refl _ s
  · dsimp only
    split
    · split
      · exact (setPass_keeps _ s).mono.trans (auditContinue_keeps _)
      · refine Keeps.trans (Keeps.ite (fun _ => (setPass_keeps _ s).mono) (fun _ => ?_)) (auditContinue_keeps _)
        exact (setPass_keeps _ s).mono.trans (auditFailure_keeps _ _ _)
    · exact .refl _ s

theorem writeEnded_keeps (i : SlotNo) (s : State) : Keeps [.audit] s (writeEnded i s) := by
  unfold writeEnded
  split
  · exact Keeps.ite (fun _ => setPass_keeps _ s) (fun _ => .refl _ s)
  · exact .refl _ s

/-! ## The outcomes of transactions -/

theorem identified_keeps (i : SlotNo) (bs : List Byte) (s : State) : Keeps Foot.outcome s (identified i bs s) := by
  unfold identified
  dsimp only
  refine Keeps.ite (fun _ => ?_) (fun _ => .refl _ s)
  split
  · exact (setSlot_keeps s i _).mono.trans (reject_keeps i _ _).mono
  · exact (((setSlot_keeps s i _).mono.trans (setSlotState_keeps _ i _).mono).trans (request_keeps i _ _).mono).trans
      (slotChanged_keeps i _).mono

theorem firstPass_keeps (i : SlotNo) (id : Identity) (q c : Nat) (s : State) : Keeps Foot.outcome s (firstPass i id q c s) := by
  unfold firstPass
  dsimp only
  refine Keeps.trans ?_ (triggerIfBehind_keeps i _).mono
  refine Keeps.trans ?_ (slotChanged_keeps i _).mono
  refine Keeps.trans ?_ (levelCheckCore_keeps i _ _).mono
  refine Keeps.trans ?_ (raise_keeps _ _ _ _).mono
  refine Keeps.trans ?_ (reportSlot_keeps _ i).mono
  refine Keeps.trans ?_ (setSlot_keeps _ i _).mono
  refine Keeps.trans ?_ (Keeps.foldl _ _ (fun t m => (addEvidenceCore_keeps i m true t).mono) _)
  exact (historyFirstPass_keeps id q c _ s).mono

theorem firstAnswer_keeps (i : SlotNo) (id : Identity) (n : BitVec 64) (bs : List Byte) (s : State) :
    Keeps Foot.outcome s (firstAnswer i id n bs s) := by
  unfold firstAnswer
  dsimp only
  refine Keeps.ite (fun _ => (reject_keeps i _ s).mono) (fun _ => ?_)
  refine Keeps.ite (fun _ => (reject_keeps i _ s).mono) (fun _ => ?_)
  refine Keeps.ite (fun _ => (reject_keeps i _ s).mono) (fun _ => ?_)
  split
  · exact ((rejectCore_keeps i _ s).mono.trans (raise_keeps _ _ _ _).mono).trans (slotChanged_keeps i _).mono
  · exact firstPass_keeps i id _ _ s

theorem returnSlot_keeps (i : SlotNo) (ch : Challenge) (st : SlotState) (s : State) :
    Keeps Foot.outcome s (returnSlot i ch st s) :=
  ((setSlot_keeps s i _).mono.trans (raise_keeps _ _ _ _).mono).trans (slotChanged_keeps i _).mono

theorem laterAnswer_keeps (i : SlotNo) (ch : Challenge) (r : ReturnState) (id : Identity) (n : BitVec 64) (bs : List Byte)
    (s : State) : Keeps Foot.outcome s (laterAnswer i ch r id n bs s) := by
  unfold laterAnswer
  refine Keeps.ite (fun _ => (reject_keeps i _ s).mono) (fun _ => ?_)
  refine Keeps.ite (fun _ => returnSlot_keeps i ch _ s) (fun _ => ?_)
  exact (addEvidenceCore_keeps i _ _ s).mono.trans (returnSlot_keeps i ch _ _)

theorem challenged_keeps (i : SlotNo) (n : BitVec 64) (bs : List Byte) (s : State) : Keeps Foot.outcome s (challenged i n bs s) := by
  unfold challenged
  split
  · exact firstAnswer_keeps i _ n bs s
  · exact laterAnswer_keeps i _ _ _ n bs s
  · exact laterAnswer_keeps i _ _ _ n bs s
  · exact .refl _ s

theorem continueRetirement_keeps (i : SlotNo) (s : State) : Keeps [.slotState, .lines] s (continueRetirement i s) :=
  Keeps.ite (fun _ => (setSlotState_keeps s i _).mono.trans (request_keeps i _ _).mono) (fun _ => .refl _ s)

theorem retirementTrigger_keeps (i : SlotNo) (s : State) : Keeps [.owedCommit] s (retirementTrigger i s) := by
  unfold retirementTrigger
  split
  · exact .ite (fun _ => setOwedCommit_keeps i _ s) (fun _ => .refl _ s)
  · exact .refl _ s

theorem writeDone_keeps (i : SlotNo) (c n : Nat) (s : State) : Keeps Foot.outcome s (writeDone i c n s) := by
  unfold writeDone
  dsimp only
  refine Keeps.trans ?_ (continueRetirement_keeps i _).mono
  refine Keeps.trans ?_ (serveOwedCommit_keeps i _).mono
  refine Keeps.trans ?_ (retirementTrigger_keeps i _).mono
  refine Keeps.trans ?_ (writeEnded_keeps i _).mono
  refine Keeps.trans ?_ (historyCommit_keeps i _).mono
  exact (setSlot_keeps s i _).mono

theorem writeRefused_keeps (i : SlotNo) (s : State) : Keeps Foot.outcome s (writeRefused i s) := by
  unfold writeRefused
  dsimp only
  refine Keeps.trans ?_ (serveOwedCommit_keeps i _).mono
  refine Keeps.trans ?_ (raise_keeps _ _ _ _).mono
  refine Keeps.trans ?_ (addEvidence_keeps i _ _).mono
  exact (faultCore_keeps i _ _ s).mono.trans (slotChanged_keeps i _).mono

theorem marked_keeps (i : SlotNo) (s : State) : Keeps Foot.outcome s (marked i s) :=
  Keeps.ite (fun _ => ((setSlotState_keeps s i _).mono.trans (raise_keeps _ _ _ _).mono).trans (slotChanged_keeps i _).mono)
    (fun _ => .refl _ s)

theorem setFlight_keeps (l : LineNo) (f : Option Flight) (s : State) : Keeps [.lines] s (setFlight l f s) := setLine_keeps s l _

theorem modCounters_keeps (l : LineNo) (f : LineCounters → LineCounters) (s : State) : Keeps [.lines] s (modCounters l f s) :=
  setLine_keeps s l _

theorem succeed_keeps (l : LineNo) (fl : Flight) (bs : Option (List Byte)) (refused : Bool) (s : State) :
    Keeps Foot.outcome s (succeed l fl bs refused s) := by
  have h1 : Keeps Foot.outcome s
      (setFlight l none (modCounters l (fun k => { k with completed := sat32 (k.completed + 1) }) s)) :=
    (modCounters_keeps l _ s).mono.trans (setFlight_keeps l _ _).mono
  unfold succeed
  dsimp only
  split
  · exact h1.trans (identified_keeps _ _ _)
  · split
    · exact h1.trans (challenged_keeps _ _ _ _)
    all_goals exact h1
  · refine Keeps.ite (fun _ => h1.trans (writeRefused_keeps _ _)) (fun _ => ?_)
    split
    · exact h1.trans (writeDone_keeps _ _ _ _)
    all_goals exact h1
  · exact h1.trans (marked_keeps _ _)
  · split
    · exact h1.trans (readOutcome_keeps _ _ _ _).mono
    all_goals exact h1

theorem freeCount_keeps (s : State) (n : Nat) : Keeps [.freeCount] s { s with freeCount := n } := by
  intro p hp
  cases p <;> first
    | exact absurd (by decide) hp | exact rfl | exact ⟨rfl, rfl⟩ | exact ⟨rfl, rfl, rfl⟩ | exact fun _ => rfl
    | exact fun _ => ⟨rfl, rfl⟩

theorem exhaustTries_keeps (l : LineNo) (fl : Flight) (s : State) : Keeps Foot.outcome s (exhaustTries l fl s) := by
  have h1 : Keeps Foot.outcome s
      (setFlight l none (modCounters l (fun k => { k with failed := sat32 (k.failed + 1) }) s)) :=
    (modCounters_keeps l _ s).mono.trans (setFlight_keeps l _ _).mono
  have hf : ∀ i r k t, Keeps Foot.outcome t (faultCore i r k t) := fun i r k t => (faultCore_keeps i r k t).mono
  have hr : ∀ k subj d t, Keeps Foot.outcome t (raise k subj d t) := fun k subj d t => (raise_keeps k subj d t).mono
  unfold exhaustTries
  dsimp only
  refine Keeps.ite (fun _ => h1) (fun _ => Keeps.ite (fun _ => ?_) (fun _ => ?_))
  · refine Keeps.trans ?_ (serveOwedCommit_keeps _ _).mono
    refine Keeps.trans ?_ (slotChanged_keeps _ _).mono
    have h2 := fun n => h1.trans ((freeCount_keeps _ n).mono (gs := Foot.outcome))
    exact Keeps.ite (fun _ => ((h2 _).trans (hf _ _ _ _)).trans (hr _ _ _ _))
      (fun _ => ((h2 _).trans (hr _ _ _ _)).trans (hf _ _ _ _))
  · exact (h1.trans (hf _ _ _ _)).trans (slotChanged_keeps _ _).mono

theorem endWithdrawn_keeps (l : LineNo) (fl : Flight) (s : State) : Keeps Foot.owed s (endWithdrawn l fl s) :=
  Keeps.ite (fun _ => (setFlight_keeps l _ s).mono.trans (serveOwedCommit_keeps _ _)) (fun _ => (setFlight_keeps l _ s).mono)

theorem failTry_keeps (l : LineNo) (fl : Flight) (s : State) : Keeps Foot.outcome s (failTry l fl s) :=
  Keeps.ite (fun _ => (endWithdrawn_keeps l fl s).mono) (fun _ => Keeps.ite (fun _ => (setFlight_keeps l _ s).mono)
    (fun _ => exhaustTries_keeps l fl s))

theorem tryEnded_keeps (l : LineNo) (fl : Flight) (v : Verdict) (s : State) : Keeps Foot.outcome s (tryEnded l fl v s) := by
  unfold tryEnded
  split
  · exact Keeps.ite (fun _ => (endWithdrawn_keeps l fl s).mono) (fun _ => succeed_keeps l fl _ _ s)
  · exact Keeps.ite (fun _ => (endWithdrawn_keeps l fl s).mono) (fun _ => succeed_keeps l fl _ _ s)
  · exact Keeps.ite (fun _ => (endWithdrawn_keeps l fl s).mono) (fun _ => succeed_keeps l fl _ _ s)
  · exact (modCounters_keeps l _ s).mono.trans (failTry_keeps l fl _)
  · exact (modCounters_keeps l _ s).mono.trans (failTry_keeps l fl _)

end Sys2Proof.Machine
end

