-- ==== Sys2Proof/Laws/StepFrames.lean ====
section
/-!
SUPPORT. What each command may change (`mayChange`), and that it changes nothing else (`exec_keeps`): resets and the loss of power
apart, which replace every block's state.
-/

namespace Sys2Proof.Machine

/-! ## Downstream -/

theorem goodFrame_keeps (s : State) : Keeps Foot.heard s (goodFrame s) := by
  have h1 : Keeps Foot.heard s { s with link := { s.link with state := .up, failures := 0, reception := none } } := by
    intro p hp
    cases p <;> first
      | exact absurd (by decide) hp | exact rfl | exact ⟨rfl, rfl⟩ | exact ⟨rfl, rfl, rfl⟩ | exact fun _ => rfl
      | exact fun _ => ⟨rfl, rfl⟩
  unfold goodFrame
  dsimp only
  split
  · exact h1
  · exact h1.trans (raise_keeps _ _ _ _).mono

theorem forward_keeps (f : LinkFrame) (s : State) : Keeps [.headOut] s (forward f s) := by
  intro p hp
  cases p <;> first
    | exact absurd (by decide) hp | exact rfl | exact ⟨rfl, rfl⟩ | exact ⟨rfl, rfl, rfl⟩ | exact fun _ => rfl
    | exact fun _ => ⟨rfl, rfl⟩

theorem inSwath_keeps (g : OpenSwath → OpenSwath) (s : State) : Keeps [.openSwath] s (inSwath g s) := by
  intro p hp
  cases p <;> first
    | exact absurd (by decide) hp | exact rfl | exact ⟨rfl, rfl⟩ | exact ⟨rfl, rfl, rfl⟩ | exact fun _ => rfl
    | exact fun _ => ⟨rfl, rfl⟩

theorem blankFrame_keeps (f : FiringFrame) (s : State) : Keeps [.headOut, .openSwath] s (blankFrame f s) :=
  (forward_keeps _ s).mono.trans (inSwath_keeps _ _).mono

theorem discardFrame_keeps (h : HeadNo) (f : FiringFrame) (s : State) :
    Keeps ([.openSwath, .unmappedFlags] ++ Foot.raise) s (discardFrame h f s) := by
  unfold discardFrame
  dsimp only
  refine Keeps.ite (fun _ => (inSwath_keeps _ s).mono) (fun _ => Keeps.trans ?_ (raise_keeps _ _ _ _).mono)
  intro p hp
  cases p <;> first
    | exact absurd (by decide) hp | exact rfl | exact ⟨rfl, rfl⟩ | exact ⟨rfl, rfl, rfl⟩ | exact fun _ => rfl
    | exact fun _ => ⟨rfl, rfl⟩

theorem countFrame_keeps (c : ChannelNo) (f : FiringFrame) (v : Nat) (s : State) : Keeps Foot.counted s (countFrame c f v s) :=
  ((forward_keeps _ s).mono.trans (inSwath_keeps _ _).mono).trans (addVolume_keeps c v _).mono

theorem meterFrame_keeps (h : HeadNo) (f : FiringFrame) (s : State) :
    Keeps (.unmappedFlags :: Foot.counted) s (meterFrame h f s) := by
  unfold meterFrame
  dsimp only
  split
  · exact (discardFrame_keeps h f s).mono
  · split
    · exact (blankFrame_keeps f s).mono
    · exact Keeps.ite (fun _ => (blankFrame_keeps f s).mono) (fun _ => (countFrame_keeps _ f _ s).mono)

theorem dispatchOther_keeps (f : LinkFrame) (s : State) : Keeps (.headOut :: Foot.raise) s (dispatchOther f s) := by
  have hf := (forward_keeps f s).mono (gs := .headOut :: Foot.raise)
  have hr := fun k subj d => (raise_keeps k subj d s).mono (gs := .headOut :: Foot.raise)
  unfold dispatchOther
  exact Keeps.ite (fun _ => Keeps.ite (fun _ => .refl _ s) (fun _ => hf)) (fun _ => Keeps.ite
    (fun _ => Keeps.ite (fun _ => .refl _ s) (fun _ => hr _ _ _)) (fun _ => Keeps.ite (fun _ => .refl _ s) (fun _ => hf)))

theorem firing_keeps (f : FiringFrame) (s : State) :
    Keeps (.unmappedFlags :: Foot.heard ++ Foot.counted) s (firing f s) := by
  unfold firing
  dsimp only
  split
  · exact Keeps.ite (fun _ => (goodFrame_keeps s).mono) (fun _ => (goodFrame_keeps s).mono.trans (meterFrame_keeps _ f _).mono)
  · exact (goodFrame_keeps s).mono.trans (dispatchOther_keeps _ _).mono

theorem trackOpen_keeps (id : Nat) (s : State) : Keeps Foot.close s (trackOpen id s) :=
  Keeps.ite (fun _ => .refl _ s) (fun _ => (closeSwath_keeps _ s).trans (openSwath_keeps id _).mono)

theorem trackClose_keeps (id : Nat) (s : State) : Keeps Foot.close s (trackClose id s) := by
  unfold trackClose
  refine Keeps.ite (fun _ => .refl _ s) (fun _ => ?_)
  split
  · exact closeSwath_keeps _ s
  · exact (raise_keeps _ _ _ s).mono

theorem takeManagement_keeps (tag : Byte) (kind : BitVec 16) (args : List Byte) (s : State) :
    Keeps ([.requests, .responses] ++ Foot.raise) s (takeManagement tag kind args s) := by
  unfold takeManagement
  refine Keeps.ite (fun _ => ?_) (fun _ => Keeps.ite (fun _ => (placeResponse_keeps _ s).mono) (fun _ => (raise_keeps _ _ _ s).mono))
  intro p hp
  cases p <;> first
    | exact absurd (by decide) hp | exact rfl | exact ⟨rfl, rfl⟩ | exact ⟨rfl, rfl, rfl⟩ | exact fun _ => rfl
    | exact fun _ => ⟨rfl, rfl⟩

theorem linkUpdate_keeps (s : State) (st : LinkState) (n : Nat) (r : Option (List Byte)) :
    Keeps Foot.heard s { s with link := { s.link with state := st, failures := n, reception := r } } := by
  intro p hp
  cases p <;> first
    | exact absurd (by decide) hp | exact rfl | exact ⟨rfl, rfl⟩ | exact ⟨rfl, rfl, rfl⟩ | exact fun _ => rfl
    | exact fun _ => ⟨rfl, rfl⟩

theorem loseLink_keeps (n : Nat) (s : State) : Keeps (Foot.heard ++ Foot.close) s (loseLink n s) :=
  ((linkUpdate_keeps s .lost 3 s.link.reception).mono.trans (raise_keeps _ _ _ _).mono).trans
    (closeSwath_keeps _ _).mono

theorem checkFailure_keeps (k : Byte) (s : State) : Keeps (Foot.heard ++ Foot.close) s (checkFailure k s) := by
  unfold checkFailure
  dsimp only
  split
  · exact .refl _ s
  · have h1 := fun n => ((linkUpdate_keeps s s.link.state n s.link.reception).mono (gs := Foot.heard ++ Foot.close)).trans
      ((raise_keeps .linkCheckError .none (n * 256 + k.toNat) _).mono (gs := Foot.heard ++ Foot.close))
    exact Keeps.ite (fun _ => (h1 _).trans (loseLink_keeps _ _)) (fun _ => h1 _)

theorem lossOfFraming_keeps (s : State) : Keeps (Foot.heard ++ Foot.close) s (lossOfFraming s) := by
  unfold lossOfFraming
  dsimp only
  have h1 := (linkUpdate_keeps s s.link.state s.link.failures none).mono (gs := Foot.heard ++ Foot.close)
  split
  · exact h1
  · exact h1.trans (loseLink_keeps _ _)

/-! ## Upstream -/

theorem headStatus_keeps (f : LinkFrame) (s : State) : Keeps (.headBuffer :: Foot.raise) s (headStatus f s) := by
  unfold headStatus
  refine Keeps.ite (fun _ => ?_) (fun _ => (raise_keeps _ _ _ s).mono)
  intro p hp
  cases p <;> first
    | exact absurd (by decide) hp | exact rfl | exact ⟨rfl, rfl⟩ | exact ⟨rfl, rfl, rfl⟩ | exact fun _ => rfl
    | exact fun _ => ⟨rfl, rfl⟩

theorem endTransmission_keeps (f : LaneFrame) (s : State) : Keeps [.lane, .laneOut] s (endTransmission f s) := by
  intro p hp
  cases p <;> first
    | exact absurd (by decide) hp | exact rfl | exact ⟨rfl, rfl⟩ | exact ⟨rfl, rfl, rfl⟩ | exact fun _ => rfl
    | exact fun _ => ⟨rfl, rfl⟩

/-! ## Cartridges -/

theorem contactClose_keeps (i : SlotNo) (s : State) : Keeps ([.presence, .slotState] ++ Foot.changed) s (contactClose i s) := by
  unfold contactClose
  refine Keeps.ite (fun _ => .refl _ s) (fun _ => Keeps.ite (fun _ => ?_) (fun _ => (setPresence_keeps s i _).mono))
  exact ((setPresence_keeps s i _).mono.trans (setSlotState_keeps _ i _).mono).trans (slotChanged_keeps i _).mono

theorem removeSlot_keeps (i : SlotNo) (s : State) : Keeps (Foot.slot ++ Foot.history ++ Foot.changed) s (removeSlot i s) := by
  unfold removeSlot
  dsimp only
  refine Keeps.trans ?_ (slotChanged_keeps i _).mono
  refine Keeps.trans ?_ (raise_keeps _ _ _ _).mono
  refine Keeps.trans ?_ (withdrawSlot_keeps i _).mono
  exact (historyRemoval_keeps i s).mono.trans (setSlot_keeps _ i _).mono

theorem contactOpen_keeps (i : SlotNo) (s : State) :
    Keeps (.presence :: Foot.slot ++ Foot.history ++ Foot.changed) s (contactOpen i s) := by
  unfold contactOpen
  dsimp only
  refine Keeps.ite (fun _ => ?_) (fun _ => .refl _ s)
  split
  · exact (setPresence_keeps s i _).mono
  · exact ((setPresence_keeps s i _).mono.trans (setSlotState_keeps _ i _).mono).trans (slotChanged_keeps i _).mono
  · exact (setPresence_keeps s i _).mono.trans (removeSlot_keeps i _).mono

theorem settlingEnd_keeps (i : SlotNo) (s : State) : Keeps ([.presence, .slotState] ++ Foot.changed) s (settlingEnd i s) := by
  unfold settlingEnd
  refine Keeps.ite (fun _ => Keeps.ite (fun _ => (setPresence_keeps s i _).mono) (fun _ => ?_)) (fun _ => .refl _ s)
  exact ((((setPresence_keeps s i _).mono.trans (setSlotState_keeps _ i _).mono).trans (raise_keeps _ _ _ _).mono).trans
    (request_keeps i _ _).mono).trans (slotChanged_keeps i _).mono

theorem startRetirement_keeps (i : SlotNo) (s : State) : Keeps (.slotState :: Foot.commit) s (startRetirement i s) :=
  Keeps.ite (fun _ => (triggerIfBehind_keeps i s).mono)
    (fun _ => (setSlotState_keeps s i _).mono.trans (request_keeps i _ _).mono)

theorem retirementHandover_keeps (i : SlotNo) (s : State) :
    Keeps (.slotState :: Foot.history ++ Foot.changed) s (retirementHandover i s) := by
  unfold retirementHandover
  dsimp only
  refine Keeps.ite (fun _ => Keeps.ite (fun _ => ?_) (fun _ => (setHandover_keeps s i _).mono)) (fun _ => .refl _ s)
  exact ((((setHandover_keeps s i _).mono.trans (setSlotState_keeps _ i _).mono).trans (slotChanged_keeps i _).mono).trans
    (historyRetire_keeps i _).mono).trans (startRetirement_keeps i _).mono

theorem supplyPayload_keeps (e : TxEntry) (s : State) : Keeps [.nonce, .testArm] s (supplyPayload e s).2 := by
  unfold supplyPayload
  split
  · exact .refl _ s
  · exact .refl _ s
  · intro p hp
    cases p <;> first
      | exact absurd (by decide) hp | exact rfl | exact ⟨rfl, rfl⟩ | exact ⟨rfl, rfl, rfl⟩ | exact fun _ => rfl
      | exact fun _ => ⟨rfl, rfl⟩
  · refine Keeps.ite (fun _ => ?_) (fun _ => .refl _ s)
    intro p hp
    cases p <;> first
      | exact absurd (by decide) hp | exact rfl | exact ⟨rfl, rfl⟩ | exact ⟨rfl, rfl, rfl⟩ | exact fun _ => rfl
      | exact fun _ => ⟨rfl, rfl⟩
  · exact .refl _ s

theorem sendOn_keeps (l : LineNo) (fl : Flight) (s : State) : Keeps [.busOut] s (sendOn l fl s) := by
  intro p hp
  cases p <;> first
    | exact absurd (by decide) hp | exact rfl | exact ⟨rfl, rfl⟩ | exact ⟨rfl, rfl, rfl⟩ | exact fun _ => rfl
    | exact fun _ => ⟨rfl, rfl⟩

theorem transactionStart_keeps (l : LineNo) (s : State) :
    Keeps [.nonce, .testArm, .lines, .busOut] s (transactionStart l s) := by
  unfold transactionStart
  dsimp only
  split
  · refine Keeps.ite (fun _ => ?_) (fun _ => .refl _ s)
    exact ((supplyPayload_keeps _ s).mono.trans (setLine_keeps _ l _).mono).trans (sendOn_keeps l _ _).mono
  · exact .refl _ s

theorem retryPauseEnd_keeps (l : LineNo) (s : State) : Keeps [.lines, .busOut] s (retryPauseEnd l s) := by
  unfold retryPauseEnd
  dsimp only
  split
  · split
    · exact (setLine_keeps s l _).mono.trans (sendOn_keeps l _ _).mono
    all_goals exact .refl _ s
  · exact .refl _ s

theorem lineStop_keeps (l : LineNo) (s : State) : Keeps [.lines] s (lineStop l s) :=
  Keeps.ite (fun _ => setLine_keeps s l _) (fun _ => .refl _ s)

theorem answerFrame_keeps (l : LineNo) (a : AnswerFrame) (s : State) : Keeps Foot.outcome s (answerFrame l a s) := by
  unfold answerFrame
  split
  · split
    · exact tryEnded_keeps l _ _ s
    all_goals exact .refl _ s
  · exact .refl _ s

theorem answerTimeout_keeps (l : LineNo) (s : State) : Keeps Foot.outcome s (answerTimeout l s) := by
  unfold answerTimeout
  split
  · split
    · exact (modCounters_keeps l _ s).mono.trans (failTry_keeps l _ _)
    all_goals exact .refl _ s
  · exact .refl _ s

/-! ## Stores and clocks -/

theorem scanPlace_keeps (s : State) (n : HistNo) : Keeps Foot.history s (scanPlace s n) := by
  unfold scanPlace
  split
  · exact Keeps.ite (fun _ => historyPut_keeps s _ _) (fun _ => .refl _ s)
  · exact .refl _ s

theorem scanEnd_keeps (s : State) : Keeps ([.historyScan, .lines] ++ Foot.history) s (scanEnd s) := by
  unfold scanEnd
  dsimp only
  refine Keeps.ite (fun _ => Keeps.trans (Keeps.foldl _ (List.finRange 64) scanPlace_keeps s).mono ?_) (fun _ => .refl _ s)
  generalize (List.finRange 64).foldl scanPlace s = u
  intro p hp
  cases p <;> first
    | exact absurd (by decide) hp | exact rfl | exact ⟨rfl, rfl⟩ | exact ⟨rfl, rfl, rfl⟩ | exact fun _ => rfl
    | exact fun _ => ⟨rfl, rfl⟩

theorem historyWriteEnd_keeps (s : State) : Keeps [.historyCells, .historyWrites] s (historyWriteEnd s) := by
  unfold historyWriteEnd
  split
  · intro p hp
    cases p <;> first
      | exact absurd (by decide) hp | exact rfl | exact ⟨rfl, rfl⟩ | exact ⟨rfl, rfl, rfl⟩ | exact fun _ => rfl
      | exact fun _ => ⟨rfl, rfl⟩
  · exact .refl _ s

theorem keysUpdate_keeps (s : State) (k : KeyStore) :
    Keeps [.keyCells, .keyImage, .keyWrites] s { s with keys := k } := by
  intro p hp
  cases p <;> first
    | exact absurd (by decide) hp | exact rfl | exact ⟨rfl, rfl⟩ | exact ⟨rfl, rfl, rfl⟩ | exact fun _ => rfl
    | exact fun _ => ⟨rfl, rfl⟩

theorem keyWriteEnd_keeps (s : State) : Keeps Foot.key s (keyWriteEnd s) := by
  unfold keyWriteEnd
  dsimp only
  split
  · exact (keysUpdate_keeps s _).mono.trans (respond_keeps _ _ _ _ _).mono
  · exact .refl _ s

theorem timerExpiry_keeps (i : IndNo) (s : State) : Keeps [.indicators] s (timerExpiry i s) :=
  Keeps.ite (fun _ => setIndicator_keeps s i _) (fun _ => .refl _ s)

theorem blinkPhase_keeps (i : IndNo) (s : State) : Keeps [.indicators] s (blinkPhase i s) := by
  unfold blinkPhase
  dsimp only
  split
  · exact .refl _ s
  · exact Keeps.ite (fun _ => setIndicator_keeps s i _) (fun _ => .refl _ s)

theorem tickAll_keeps (s : State) :
    Keeps [.partTime, .openSwath, .scheduleTick, .presence, .lines, .indicators] s (tickAll s) := by
  intro p hp
  cases p <;> first
    | exact absurd (by decide) hp | exact rfl | exact ⟨rfl, rfl⟩ | exact ⟨rfl, rfl, rfl⟩ | exact fun _ => rfl
    | exact fun _ => ⟨rfl, rfl⟩

/-! ## The schedule -/

theorem startRechallenge_keeps (i : SlotNo) (o : Origin) (s : State) :
    Keeps (.slotState :: Foot.changed) s (startRechallenge i o s).1 := by
  unfold startRechallenge
  dsimp only
  split
  · exact .refl _ s
  · split
    · exact ((place_keeps i _ _ _ s).mono.trans (setSlotState_keeps _ i _).mono).trans (slotChanged_keeps i _).mono
    · exact .refl _ s

theorem placeWork_keeps (e : SchedEntry) (s : State) : Keeps Foot.tick s (placeWork e s).1 := by
  unfold placeWork
  split
  · exact (startRechallenge_keeps _ _ s).mono
  · exact (trigger_keeps _ _ s).mono
  · split
    · exact .refl _ s
    · split
      · exact .refl _ s
      · exact (startAudit_keeps _ _ _ s).mono

theorem setEntry_keeps (n : SchedNo) (e : SchedEntry) (s : State) : Keeps [.scheduleTable] s (setEntry n e s) := by
  intro p hp
  cases p <;> first
    | exact absurd (by decide) hp | exact rfl | exact ⟨rfl, rfl⟩ | exact ⟨rfl, rfl, rfl⟩ | exact fun _ => rfl
    | exact fun _ => ⟨rfl, rfl⟩

theorem takeEntry_keeps (s : State) (n : SchedNo) : Keeps Foot.tick s (takeEntry s n) := by
  unfold takeEntry advance
  dsimp only
  refine Keeps.ite (fun _ => Keeps.ite (fun _ => ?_) (fun _ => (setEntry_keeps n _ s).mono)) (fun _ => .refl _ s)
  split
  · exact (placeWork_keeps _ s).trans (setEntry_keeps n _ _).mono
  · refine Keeps.trans ?_ (setEntry_keeps n _ _).mono
    exact ((placeWork_keeps _ s).trans (setEntry_keeps n _ _).mono).trans (raise_keeps _ _ _ _).mono

theorem scheduleUpdate_keeps (s : State) (g : Schedule) : Keeps Foot.tick s { s with schedule := g } := by
  intro p hp
  cases p <;> first
    | exact absurd (by decide) hp | exact rfl | exact ⟨rfl, rfl⟩ | exact ⟨rfl, rfl, rfl⟩ | exact fun _ => rfl
    | exact fun _ => ⟨rfl, rfl⟩

theorem processTable_keeps (s : State) : Keeps Foot.tick s (processTable s) := Keeps.foldl _ _ takeEntry_keeps s

theorem scheduleStep_keeps (s : State) : Keeps Foot.tick s (scheduleStep s) := by
  unfold scheduleStep
  split
  · exact (scheduleUpdate_keeps s _).trans (processTable_keeps _)
  · exact scheduleUpdate_keeps s _
  · refine Keeps.ite (fun _ => Keeps.trans ?_ (processTable_keeps _)) (fun _ => .refl _ _)
    exact scheduleUpdate_keeps s _

theorem scheduleTick_keeps (s : State) : Keeps Foot.tick s (scheduleTick s) := by
  refine Keeps.ite (fun _ => Keeps.trans ?_ (scheduleStep_keeps _)) (fun _ => .refl _ s)
  exact scheduleUpdate_keeps s _

/-! ## Requests that change records -/

theorem clearActive_keeps (c : ChannelNo) (s : State) : Keeps Foot.run s (clearActive c s) := by
  unfold clearActive
  dsimp only
  split
  · exact .refl _ s
  · refine Keeps.ite (fun _ => .refl _ s) (fun _ => ?_)
    have h1 : ∀ st : ChannelState, Keeps Foot.run s
        (reportSupply (s.setChan c { s.chan c with active := none, state := st, gate := .closed, switched := true }) c) := by
      intro st
      refine Keeps.trans ?_ (reportSupply_keeps _ c).mono
      exact setChan_keeps_of _ s c _ (fun _ => rfl) (fun _ => ⟨rfl, rfl⟩) (fun h => absurd (by decide) h) (fun _ => rfl)
        (fun h => absurd (by decide) h)
    refine Keeps.trans ?_ (retireCheck_keeps _ _).mono
    exact Keeps.ite (fun _ => h1 _) (fun _ => (h1 _).trans (raise_keeps _ _ _ _).mono)

theorem inkCheck_keeps (ink : Nat) (s : State) (i : SlotNo) : Keeps (Foot.reject ++ Foot.changed) s (inkCheck ink s i) := by
  unfold inkCheck
  split
  · exact Keeps.ite (fun _ => (rejectCore_keeps i _ s).mono.trans (slotReported_keeps i _).mono) (fun _ => .refl _ s)
  · exact .refl _ s

theorem newSlotCheck_keeps (was : List SlotNo) (s : State) (i : SlotNo) : Keeps Foot.checked s (newSlotCheck was s i) := by
  unfold newSlotCheck
  dsimp only
  refine Keeps.ite (fun _ => Keeps.ite (fun _ => ?_) (fun _ => (levelCheckCore_keeps i _ s).mono)) (fun _ => .refl _ s)
  exact (levelCheckCore_keeps i _ s).mono.trans (slotReported_keeps i _).mono

theorem writeChannel_keeps (c : ChannelNo) (ink : Nat) (feed : List SlotNo) (p : Policy) (s : State) :
    Keeps (.channelSetup :: Foot.reject ++ Foot.checked) s (writeChannel c ink feed p s) := by
  unfold writeChannel
  dsimp only
  refine Keeps.trans ?_ (selectionRun_keeps c _).mono
  refine Keeps.trans ?_ (Keeps.foldl _ _ (fun t i => (newSlotCheck_keeps _ t i).mono) _)
  refine Keeps.trans ?_ (Keeps.foldl _ _ (fun t i => (inkCheck_keeps _ t i).mono) _)
  refine Keeps.trans ?_ (clearActive_keeps c _).mono
  exact setChan_keeps_of _ s c _ (fun h => absurd (by decide) h) (fun _ => ⟨rfl, rfl⟩) (fun _ => rfl) (fun _ => rfl) (fun _ => rfl)

theorem writeLimits_keeps (c : ChannelNo) (lim : Limits) (s : State) :
    Keeps (.channelLimits :: Foot.checked) s (writeLimits c lim s) := by
  refine Keeps.ite (fun _ => ?_) (fun _ => applyLimits_keeps c lim s)
  exact setChan_keeps_of _ s c _ (fun _ => rfl) (fun h => absurd (by decide) h) (fun _ => rfl) (fun _ => rfl) (fun _ => rfl)

theorem writeMapEntry_keeps (h : HeadNo) (e : MapEntry) (s : State) :
    Keeps [.headMap, .unmappedFlags] s (writeMapEntry h e s) := by
  intro p hp
  cases p <;> first
    | exact absurd (by decide) hp | exact rfl | exact ⟨rfl, rfl⟩ | exact ⟨rfl, rfl, rfl⟩ | exact fun _ => rfl
    | exact fun _ => ⟨rfl, rfl⟩

theorem writeMap_keeps (es : List MapEntry) (n : Nat) (s : State) : Keeps [.headMap, .unmappedFlags] s (writeMap n es s) := by
  induction es generalizing n s with
  | nil => exact .refl _ s
  | cons e es ih =>
    unfold writeMap
    split
    · exact (writeMapEntry_keeps _ _ s).trans (ih _ _)
    · exact .refl _ s

theorem writeVolumes_keeps (set : SetNo) (w : WaveNo) (v : Volumes) (s : State) :
    Keeps [.volumeTable] s (writeVolumes set w v s) := by
  unfold writeVolumes
  dsimp only
  split <;>
  · intro p hp
    cases p <;> first
      | exact absurd (by decide) hp | exact rfl | exact ⟨rfl, rfl⟩ | exact ⟨rfl, rfl, rfl⟩ | exact fun _ => rfl
      | exact fun _ => ⟨rfl, rfl⟩

theorem clearCounters_keeps (s : State) (c : ChannelNo) :
    Keeps ([.counters, .debitFlags] ++ Foot.report) s (clearCounters s c) := by
  refine Keeps.trans (Keeps.mono (fs := [.counters, .debitFlags]) ?_) (reportMeter_keeps _ c).mono
  intro p hp
  cases p <;> first
    | exact absurd (by decide) hp | exact rfl | exact ⟨rfl, rfl⟩ | exact ⟨rfl, rfl, rfl⟩ | exact fun _ => rfl
    | exact fun _ => ⟨rfl, rfl⟩

theorem writeSwathLimit_keeps (n : Nat) (s : State) : Keeps [.swathLimit] s (writeSwathLimit n s) := by
  unfold writeSwathLimit
  split <;>
  · intro p hp
    cases p <;> first
      | exact absurd (by decide) hp | exact rfl | exact ⟨rfl, rfl⟩ | exact ⟨rfl, rfl, rfl⟩ | exact fun _ => rfl
      | exact fun _ => ⟨rfl, rfl⟩

theorem rejectAll_keeps (named : Identity → Bool) (r : RejectReason) (s : State) :
    Keeps (Foot.reject ++ Foot.changed) s (rejectAll named r s) :=
  Keeps.foldl _ _ (fun t i => Keeps.ite (fun _ => reject_keeps i r t) (fun _ => .refl _ t)) s

theorem retrySlot_keeps (i : SlotNo) (s : State) : Keeps (Foot.slot ++ Foot.history ++ Foot.changed) s (retrySlot i s) := by
  unfold retrySlot
  refine Keeps.trans ?_ (slotChanged_keeps i _).mono
  refine Keeps.trans ?_ (request_keeps i _ _).mono
  exact (historyRemoval_keeps i s).mono.trans (setSlot_keeps _ i _).mono

theorem eraseHistory_keeps (s : State) : Keeps Foot.history s (eraseHistory s) :=
  Keeps.foldl _ _ (fun t n => historyPut_keeps t n none) s

theorem setRoute_keeps (x : Route) (s : State) (k : Fin 28) : Keeps [.routes] s (setRoute x s k) := by
  intro p hp
  cases p <;> first
    | exact absurd (by decide) hp | exact rfl | exact ⟨rfl, rfl⟩ | exact ⟨rfl, rfl, rfl⟩ | exact fun _ => rfl
    | exact fun _ => ⟨rfl, rfl⟩

theorem reloadLatches_keeps (s : State) : Keeps [.latches, .indicators] s (reloadLatches s) := by
  refine Keeps.trans ?_ (evaluateAll_keeps _).mono
  intro p hp
  cases p <;> first
    | exact absurd (by decide) hp | exact rfl | exact ⟨rfl, rfl⟩ | exact ⟨rfl, rfl, rfl⟩ | exact fun _ => rfl
    | exact fun _ => ⟨rfl, rfl⟩

theorem releaseOne_keeps (s : State) (i : IndNo) : Keeps [.indicators] s (releaseOne s i) :=
  Keeps.ite (fun _ => setIndicator_keeps s i _) (fun _ => .refl _ s)

theorem changeMode_keeps (m : Mode) (now : Bool) (s : State) : Keeps Foot.modeSet s (changeMode m now s) := by
  unfold changeMode
  refine Keeps.ite (fun _ => (enterStandby_keeps s).mono) (fun _ => ?_)
  refine Keeps.ite (fun _ => (wake_keeps m s).mono) (fun _ => ?_)
  refine Keeps.ite (fun _ => (applyMode_keeps m s).mono) (fun _ => ?_)
  refine Keeps.ite (fun _ => (closeSwath_keeps _ s).mono.trans (applyMode_keeps m _).mono) (fun _ => ?_)
  intro p hp
  cases p <;> first
    | exact absurd (by decide) hp | exact rfl | exact ⟨rfl, rfl⟩ | exact ⟨rfl, rfl, rfl⟩ | exact fun _ => rfl
    | exact fun _ => ⟨rfl, rfl⟩

/-! ## Every command -/

/-- The commands that replace every block's state. -/
def resets : Instr → Bool
  | .powerOn _ | .resetLine _ | .transmissionEnd _ | .powerLoss _ _ => true
  | _ => false

/-- What a command may change; the commands of `resets` are not looked up here. -/
def mayChange : Instr → List Part
  | .firing _ => .unmappedFlags :: Foot.heard ++ Foot.counted ++ Foot.settle
  | .swathOpen _ _ | .swathClose _ _ => .headOut :: Foot.heard ++ Foot.close ++ Foot.settle
  | .swathExpiry => Foot.close ++ Foot.settle
  | .headControl _ => .headOut :: Foot.heard ++ Foot.settle
  | .management _ _ _ => .requests :: Foot.heard ++ Foot.settle
  | .checkFailure _ | .lossOfFraming => Foot.heard ++ Foot.close ++ Foot.settle
  | .headStatus _ | .returnCheckFailure _ => Foot.raise ++ Foot.lane
  | .headPortFramingLoss => Foot.lane
  | .indicatorTimerExpiry _ | .blinkPhase _ => .indicators :: Foot.lane
  | .contactClose _ | .settlingEnd _ => [.presence, .slotState] ++ Foot.changed ++ Foot.settle
  | .contactOpen _ => .presence :: Foot.slot ++ Foot.history ++ Foot.changed ++ Foot.settle
  | .retirementHandover _ => .slotState :: Foot.history ++ Foot.changed ++ Foot.settle
  | .transactionStart _ => [.nonce, .testArm, .lines, .busOut] ++ Foot.lane
  | .retryPauseEnd _ => [.lines, .busOut] ++ Foot.lane
  | .lineStop _ => .lines :: Foot.lane
  | .answerFrame _ _ | .answerTimeout _ => Foot.outcome ++ Foot.settle
  | .scanEnd => [.historyScan, .lines] ++ Foot.history ++ Foot.settle
  | .historyWriteEnd => .historyCells :: Foot.settle
  | .keyWriteEnd => Foot.key ++ Foot.lane
  | .scheduleTick => Foot.tick ++ Foot.settle
  | .partTimeIncrement => [.partTime, .openSwath, .scheduleTick, .presence, .lines, .indicators] ++ Foot.lane
  | .channelWrite => .channelSetup :: Foot.reject ++ Foot.checked ++ Foot.request
  | .channelLimitsWrite => .channelLimits :: Foot.checked ++ Foot.request
  | .headMapWrite => [.headMap, .unmappedFlags] ++ Foot.request
  | .volumeWrite => .volumeTable :: Foot.request
  | .channelCountersClear => [.counters, .debitFlags] ++ Foot.request
  | .channelDebit => Foot.debit ++ Foot.request
  | .swathLimitWrite => .swathLimit :: Foot.request
  | .keyLoad => .keyWrites :: Foot.request
  | .keyRevoke => [.keyImage, .keyWrites] ++ Foot.reject ++ Foot.changed ++ Foot.request
  | .denyAdd => .denyList :: Foot.reject ++ Foot.changed ++ Foot.request
  | .denyRemove => .denyList :: Foot.request
  | .slotRetry => Foot.slot ++ Foot.history ++ Foot.changed ++ Foot.request
  | .slotRechallenge => .slotState :: Foot.changed ++ Foot.request
  | .testWriteArm => .testArm :: Foot.request
  | .historyErase => Foot.history ++ Foot.request
  | .auditStart => Foot.read ++ Foot.request
  | .auditContinue => Foot.finding ++ Foot.request
  | .auditStop => Foot.commit ++ Foot.request
  | .scheduleRun | .scheduleHalt => .scheduleState :: Foot.request
  | .scheduleWrite => .scheduleTable :: Foot.request
  | .eventRead | .eventInsert => Foot.raise ++ Foot.request
  | .routeWrite => .routes :: Foot.request
  | .conditionRead => [.latches, .indicators] ++ Foot.request
  | .indicatorWrite | .indicatorRelease => .indicators :: Foot.request
  | .modeSet => .heldMode :: Foot.modeSet ++ Foot.request
  | .timeSet => .partTime :: Foot.request
  | .partReset => .resetPending :: Foot.request
  | .powerOn _ | .resetLine _ | .transmissionEnd _ | .powerLoss _ _ => []
  | .unknownRequest | .channelRead | .headMapRead | .volumeRead | .swathRead | .lineRead | .keyStatus | .denyRead | .slotRead
  | .historyRead | .auditRead | .scheduleRead | .routeRead | .indicatorRead | .statusRead => Foot.request

theorem live_next {f : State → State} {s t : State} (h : live f s = .next t) :
    t = if s.powered then settle (f s) else s :=
  (Host.Outcome.next.inj h).symm

theorem quiet_next {f : State → State} {s t : State} (h : quiet f s = .next t) :
    t = if s.powered then kickLane (f s) else s :=
  (Host.Outcome.next.inj h).symm

theorem live_keeps {fs : List Part} {f : State → State} {s t : State} (h : live f s = .next t) (hf : Keeps fs s (f s))
    (hs : ∀ p ∈ Foot.settle, p ∈ fs := by decide +kernel) : Keeps fs s t := by
  rw [live_next h]
  exact Keeps.ite (fun _ => hf.trans ((settle_keeps _).mono hs)) (fun _ => .refl _ s)

theorem quiet_keeps {fs : List Part} {f : State → State} {s t : State} (h : quiet f s = .next t) (hf : Keeps fs s (f s))
    (hs : ∀ p ∈ Foot.lane, p ∈ fs := by decide +kernel) : Keeps fs s t := by
  rw [quiet_next h]
  exact Keeps.ite (fun _ => hf.trans ((kickLane_keeps _).mono hs)) (fun _ => .refl _ s)

end Sys2Proof.Machine
end

