-- ==== Sys2Proof/Laws/Answers.lean ====
section
/-!
SUPPORT. How a command's outcome is put together: power, the head request, its answer, the event of a `raise`, and what the end of
a step leaves of them.
-/

namespace Sys2Proof.Machine

/-! ## Outcomes -/

theorem live_powered {f : State → State} {s : State} (h : s.powered = true) : live f s = .next (settle (f s)) := by
  unfold live; rw [if_pos h]

theorem quiet_powered {f : State → State} {s : State} (h : s.powered = true) : quiet f s = .next (kickLane (f s)) := by
  unfold quiet; rw [if_pos h]

theorem serving_serves {s : State} {r : Request} {rest : List Request} {code : Nat} (carry : Request → State → State)
    (h : Serves s r rest) (hk : r.kind.toNat = code) : serving code carry s = carry r (takeRequest rest s) := by
  unfold serving
  rw [h.2.1]
  exact if_pos ⟨hk, h.2.2⟩

theorem withArgs_fit {ws vs : List Nat} {r : Request} (carry : List Nat → Request → State → State) (s : State)
    (h : fields ws r.args = some vs) : withArgs ws carry r s = carry vs r s := by
  unfold withArgs; rw [h]

theorem withArgs_misfit {ws : List Nat} {r : Request} (carry : List Nat → Request → State → State) (s : State)
    (h : fields ws r.args = none) : withArgs ws carry r s = r.reply .badArgument [] s := by
  unfold withArgs; rw [h]

/-- A reply made in the state that took the request is the answer of `answered`. -/
theorem reply_taken (tag : Byte) (k : BitVec 16) (args : List Byte) (rest : List Request) (st : Status) (res : List Byte) (s : State) :
    ({ tag, kind := k, args } : Request).reply st res (takeRequest rest s) = answered tag k rest st res s := by
  simp [Request.reply, respond, takeRequest, answered, placeResponse]

/-! ## The part's own frames -/

theorem ownFrames_of_keeps {fs : List Part} {s t : State} (h : Keeps fs s t) (h1 : Part.outgoing ∉ fs := by decide +kernel)
    (h2 : Part.lane ∉ fs := by decide +kernel) : ownFrames t = ownFrames s := by
  have a : t.link.outgoing = s.link.outgoing := h _ h1
  have b : t.link.lane = s.link.lane := (h _ h2).1
  unfold ownFrames
  rw [a, b]

/-- The own frames are read off the link unit. -/
def LinkUnit.own (u : LinkUnit) : List OutFrame :=
  (match u.lane with
    | some (.own o) => [o]
    | some (.head _) | none => []) ++ u.outgoing

theorem LinkUnit.own_arbitrate (u : LinkUnit) : u.arbitrate.own = u.own := by
  obtain ⟨st, fl, rc, hb, out, lane, ls, br, ho, lo⟩ := u
  cases lane <;> cases hb <;> cases out <;> cases ls <;> rfl

theorem ownFrames_kickLane (s : State) : ownFrames (kickLane s) = ownFrames s := LinkUnit.own_arbitrate s.link

theorem ownFrames_settle (s : State) : ownFrames (settle s) = ownFrames s := by
  unfold settle
  rw [ownFrames_kickLane]
  exact ownFrames_of_keeps ((reportConditions_keeps s).mono.trans (kickHistory_keeps _).mono :
    Keeps (.historyWrites :: Foot.report) _ _)

theorem ownFrames_finish (c : Instr) (s : State) : ownFrames (finish c s) = ownFrames s := by
  unfold finish
  split
  · exact ownFrames_settle s
  · exact ownFrames_kickLane s

theorem ownFrames_placeResponse (r : Response) (s : State) : ownFrames (placeResponse r s) = ownFrames s ++ [.response r] := by
  unfold ownFrames placeResponse
  simp

theorem lastAnswer_placeResponse (tag : Byte) (k : BitVec 16) (st : Status) (res : List Byte) (s : State) :
    lastAnswer (placeResponse { tag, kind := k, status := st, results := res } s) tag k st res := by
  unfold lastAnswer
  rw [ownFrames_placeResponse]
  simp

theorem lastAnswer_reply (tag : Byte) (k : BitVec 16) (args : List Byte) (st : Status) (res : List Byte) (s : State) :
    lastAnswer (({ tag, kind := k, args } : Request).reply st res s) tag k st res := lastAnswer_placeResponse _ _ _ _ _

theorem lastAnswer_settle {s : State} {tag : Byte} {k : BitVec 16} {st : Status} {res : List Byte} :
    lastAnswer (settle s) tag k st res ↔ lastAnswer s tag k st res := by
  unfold lastAnswer; rw [ownFrames_settle]

theorem lastAnswer_kickLane {s : State} {tag : Byte} {k : BitVec 16} {st : Status} {res : List Byte} :
    lastAnswer (kickLane s) tag k st res ↔ lastAnswer s tag k st res := by
  unfold lastAnswer; rw [ownFrames_kickLane]

/-! ## The event queue -/

theorem raise_queue (k : EventKind) (a : Subject) (d : Nat) (s : State) : (raise k a d s).events.queue = queueWith s k a d := by
  unfold raise queueWith queueAfter requestNotice EventUnit.enqueue
  dsimp only [List.foldl]
  repeat' split
  all_goals rfl

theorem queue_of_keeps {fs : List Part} {s t : State} (h : Keeps fs s t) (h1 : Part.eventQueue ∉ fs := by decide +kernel) :
    t.events.queue = s.events.queue := (h _ h1).1

theorem settle_queue (s : State) : (settle s).events.queue = s.events.queue := queue_of_keeps (settle_keeps s)

theorem kickLane_queue (s : State) : (kickLane s).events.queue = s.events.queue := queue_of_keeps (kickLane_keeps s)

/-- Two states with the same routes, queue and part time queue an event alike. -/
theorem queueWith_congr {s t : State} (h1 : t.events = s.events) (h2 : t.mgmt.partTime = s.mgmt.partTime) (k : EventKind)
    (a : Subject) (d : Nat) : queueWith t k a d = queueWith s k a d := by
  unfold queueWith queueAfter
  rw [h1, h2]

/-! ## The return lane -/

theorem LinkUnit.arbitrate_busy {u : LinkUnit} (h : u.lane ≠ none) : u.arbitrate = u := by
  unfold LinkUnit.arbitrate
  split
  · rfl
  · exact absurd ‹_› h

theorem LinkUnit.arbitrate_takes {u : LinkUnit} (h : u.lane = none) : LaneTakes u u.arbitrate := by
  obtain ⟨st, fl, rc, hb, out, lane, ls, br, ho, lo⟩ := u
  obtain rfl : lane = none := h
  cases hb <;> cases out <;> cases ls <;> exact ⟨rfl, rfl, rfl, rfl⟩

end Sys2Proof.Machine
end

