-- ==== Sys2Proof/Laws/Bytes.lean ====
section
/-!
SUPPORT. Big-endian bytes: their number, what they spell, and a field read back where it was written.
-/

namespace Sys2Proof

@[simp] theorem be_length (n v : Nat) : (be n v).length = n := by
  induction n with
  | zero => rfl
  | succ n ih => simp [be, ih]

/-- A fold from a started number is the number of the bytes with the start above them. -/
theorem ofBe_from (a : Nat) (bs : List Byte) :
    bs.foldl (fun x (b : Byte) => x * 256 + b.toNat) a = a * 256 ^ bs.length + ofBe bs := by
  induction bs generalizing a with
  | nil => simp [ofBe]
  | cons b bs ih =>
    simp only [ofBe, List.foldl_cons, List.length_cons]
    rw [ih, ih]
    ring

theorem ofBe_cons (b : Byte) (bs : List Byte) : ofBe (b :: bs) = b.toNat * 256 ^ bs.length + ofBe bs := by
  have h := ofBe_from (0 * 256 + b.toNat) bs
  simpa [ofBe] using h

/-- What `be` writes, `ofBe` reads. -/
theorem ofBe_be (n v : Nat) : ofBe (be n v) = v % 256 ^ n := by
  induction n with
  | zero => simp [be, ofBe, Nat.mod_one]
  | succ n ih =>
    have h : v % (256 ^ n * 256) = v % 256 ^ n + 256 ^ n * (v / 256 ^ n % 256) := Nat.mod_mul
    rw [be, ofBe_cons, ih, be_length, BitVec.toNat_ofNat, pow_succ 256 n, h, Nat.add_comm, Nat.mul_comm]

theorem ofBe_be_of_lt {n v : Nat} (h : v < 256 ^ n) : ofBe (be n v) = v := by rw [ofBe_be, Nat.mod_eq_of_lt h]

namespace Machine

/-- A field at the front of a payload. -/
theorem part_front {n v : Nat} (rest : List Byte) (h : v < 256 ^ n) : part 0 n (be n v ++ rest) = v := by
  rw [part, List.drop_zero, List.take_left' (be_length n v), ofBe_be_of_lt h]

/-- A field behind bytes that fill the places before it. -/
theorem part_behind {i n : Nat} (front rest : List Byte) (h : front.length = i) : part i n (front ++ rest) = part 0 n rest := by
  rw [part, part, List.drop_left' h, List.drop_zero]

end Machine

end Sys2Proof
end

