-- ==== Sys2Proof/Laws/Conditions.lean ====
section
/-!
SUPPORT. The condition values, the results of operands and the evaluation of an indicator are those that Safety.lean states (R174,
R175, R178-R181).
-/

namespace Sys2Proof.Machine

/-! ## Condition values (R174) -/

theorem EvidenceSet.isEmpty_iff (e : EvidenceSet) : e.isEmpty = true ↔ e = {} := by
  rcases e with ⟨_ | _, _ | _, _ | _, _ | _⟩ <;> decide

theorem Slot.conds_areOf (sl : Slot) : sl.conds.areOf sl := by
  unfold SlotConds.areOf Slot.conds
  rcases sl with ⟨st, _, _, _, _, ev, _, _, _, _⟩
  refine ⟨?_, ?_, rfl, ?_, ?_, ?_, ?_, rfl⟩
  · cases st <;> simp [SlotState.present]
  · rcases st with _ | _ | _ | (_ | r | r) | _ | _ | _ | _ | _ | _ | _ <;>
      simp [SlotState.authenticated, SlotState.rechallenging]
  · rcases st with _ | _ | _ | (_ | r | r) | _ | _ | _ | _ | _ | _ | _ <;> first | (cases r <;> simp) | simp
  · cases st <;> simp
  · simp [← EvidenceSet.isEmpty_iff]
  · cases st <;> simp

theorem SlotConds.areOf_iff {v : SlotConds} {sl : Slot} : v.areOf sl ↔ v = sl.conds := by
  refine ⟨fun h => ?_, fun h => h ▸ sl.conds_areOf⟩
  obtain ⟨h1, h2, h3, h4, h5, h6, h7, h8⟩ := h
  obtain ⟨g1, g2, g3, g4, g5, g6, g7, g8⟩ := sl.conds_areOf
  have e {a b : Bool} {p : Prop} (x : a = true ↔ p) (y : b = true ↔ p) : a = b := Bool.eq_iff_iff.mpr (x.trans y.symm)
  rcases v with ⟨v1, v2, v3, v4, v5, v6, v7, v8⟩
  cases hc : sl.conds
  rw [hc] at g1 g2 g3 g4 g5 g6 g7 g8
  rw [SlotConds.mk.injEq]
  exact ⟨e h1 g1, e h2 g2, h3.trans g3.symm, e h4 g4, e h5 g5, e h6 g6, e h7 g7, h8.trans g8.symm⟩

theorem channelConds_areOf (ch : Channel) (k : Counters) : (channelConds ch k).areOf ch k := by
  unfold ChannelConds.areOf channelConds
  simp

theorem ChannelConds.areOf_iff {v : ChannelConds} {ch : Channel} {k : Counters} : v.areOf ch k ↔ v = channelConds ch k := by
  refine ⟨fun h => ?_, fun h => h ▸ channelConds_areOf ch k⟩
  obtain ⟨h1, h2, h3⟩ := h
  rcases v with ⟨v1, v2, v3⟩
  simp only [channelConds, ChannelConds.mk.injEq]
  exact ⟨Bool.eq_iff_iff.mpr (h1.trans decide_eq_true_iff.symm), Bool.eq_iff_iff.mpr (h2.trans decide_eq_true_iff.symm), h3⟩

/-- The live values agree with the records exactly if they are the ones that the model computes. -/
theorem liveAgree_iff {s : State} : LiveAgree s ↔
    (∀ i, nth s.events.slotLive i = (s.slot i).conds) ∧ ∀ c, nth s.events.channelLive c = channelConds (s.chan c) (s.counter c) :=
  and_congr (forall_congr' fun _ => SlotConds.areOf_iff) (forall_congr' fun _ => ChannelConds.areOf_iff)

/-! ## Latches (R175) -/

/-- A latch takes a value in without a change exactly if it lies beyond the value in its hold direction. -/
theorem SlotConds.latch_eq_self_iff (l v : SlotConds) : l.latch v = l ↔
    (v.present = false → l.present = false) ∧ (v.authentic = false → l.authentic = false) ∧ (v.low = true → l.low = true) ∧
    (v.depleted = true → l.depleted = true) ∧ (v.rejected = true → l.rejected = true) ∧ (v.suspect = true → l.suspect = true) ∧
    (v.faulted = true → l.faulted = true) ∧ (v.auditFail = true → l.auditFail = true) := by
  have fall (a b : Bool) : (a && b) = a ↔ (b = false → a = false) := by revert a b; decide
  have rise (a b : Bool) : (a || b) = a ↔ (b = true → a = true) := by revert a b; decide
  cases l
  simp only [SlotConds.latch, SlotConds.mk.injEq, fall, rise]

theorem ChannelConds.latch_eq_self_iff (l v : ChannelConds) : l.latch v = l ↔
    (v.starved = true → l.starved = true) ∧ (v.overdraw = true → l.overdraw = true) ∧ (v.switched = true → l.switched = true) := by
  have rise (a b : Bool) : (a || b) = a ↔ (b = true → a = true) := by revert a b; decide
  cases l
  simp only [ChannelConds.latch, ChannelConds.mk.injEq, rise]

theorem latchesLawful_iff {s : State} : LatchesLawful s ↔
    (∀ i, (nth s.events.slotLatch i).latch (nth s.events.slotLive i) = nth s.events.slotLatch i) ∧
    ∀ c, (nth s.events.channelLatch c).latch (nth s.events.channelLive c) = nth s.events.channelLatch c :=
  and_congr (forall_congr' fun _ => (SlotConds.latch_eq_self_iff _ _).symm)
    (forall_congr' fun _ => (ChannelConds.latch_eq_self_iff _ _).symm)

/-- Once a value is taken in, taking it in again changes nothing. -/
theorem SlotConds.latch_latch (l v : SlotConds) : (l.latch v).latch v = l.latch v := by simp [SlotConds.latch]

theorem ChannelConds.latch_latch (l v : ChannelConds) : (l.latch v).latch v = l.latch v := by simp [ChannelConds.latch]

/-! ## Operands and results (R178) -/

theorem Operand.member_iff (o : Operand) (u : EventUnit) (n : Nat) : o.member u n ↔ u.value o.source o.condition n = true := by
  have pos {m : Nat} {p : Fin m → Prop} : (∃ i : Fin m, i.val = n ∧ p i) ↔ ∃ h : n < m, p ⟨n, h⟩ :=
    ⟨fun ⟨i, hi, hp⟩ => by subst hi; exact ⟨i.isLt, hp⟩, fun ⟨h, hp⟩ => ⟨_, rfl, hp⟩⟩
  unfold Operand.member EventUnit.value
  cases hs : o.source <;> cases hc : o.condition <;> simp [pos, Condition.scope, SlotConds.value, ChannelConds.value]

theorem mem_maskMembers (m : BitVec 16) (n : Nat) : n ∈ maskMembers m ↔ n < 16 ∧ m.getLsbD n = true := by
  simp [maskMembers]

theorem Operand.eval_iff (o : Operand) (u : EventUnit) : o.eval u = true ↔ o.reads u := by
  unfold Operand.eval Operand.reads
  have any : (maskMembers o.mask).any (u.value o.source o.condition) = true ↔
      ∃ n, (n < 16 ∧ o.mask.getLsbD n = true) ∧ o.member u n := by
    simp only [List.any_eq_true, mem_maskMembers, Operand.member_iff]
  have all : (!(maskMembers o.mask).isEmpty && (maskMembers o.mask).all (u.value o.source o.condition)) = true ↔
      (∃ n, n < 16 ∧ o.mask.getLsbD n = true) ∧ ∀ n, n < 16 ∧ o.mask.getLsbD n = true → o.member u n := by
    rw [Bool.and_eq_true, List.all_eq_true, Bool.not_eq_true', List.isEmpty_eq_false_iff_exists_mem]
    simp only [mem_maskMembers, Operand.member_iff]
  cases o.reduce <;> cases o.invert <;>
    simp only [Bool.bne_false, Bool.bne_true, Bool.not_eq_true', Bool.false_eq_true, if_true, if_false, any, all,
      ← Bool.not_eq_true]

theorem IndFields.eval_iff (f : IndFields) (u : EventUnit) : f.eval u = true ↔ f.holds u := by
  unfold IndFields.eval IndFields.holds
  rcases f.second with _ | ⟨_ | _ | _, o⟩ <;> simp [CombineOp.apply, ← Operand.eval_iff]
  cases f.operand1.eval u <;> cases o.eval u <;> decide

/-- The results agree with the operands exactly if they are the ones that the model computes. -/
theorem resultsAgree_iff {s : State} : ResultsAgree s ↔ ∀ n : IndNo,
    ((nth s.indicators n).fields.enabled = true → (nth s.indicators n).result = (nth s.indicators n).fields.eval s.events) ∧
    ((nth s.indicators n).fields.enabled = false → (nth s.indicators n).result = false ∧ (nth s.indicators n).active = false) :=
  forall_congr' fun n =>
    have eval := IndFields.eval_iff (nth s.indicators n).fields s.events
    and_congr (imp_congr_right fun _ => ⟨fun h => Bool.eq_iff_iff.mpr (h.trans eval.symm), fun h => h ▸ eval⟩) Iff.rfl

/-! ## Evaluations (R178-R181) -/

theorem Indicator.evaluate_evaluated (u : EventUnit) (d : Indicator) : d.Evaluated u (d.evaluate u) := by
  unfold Indicator.Evaluated
  dsimp only
  rw [← IndFields.eval_iff]
  unfold Indicator.evaluate
  generalize d.fields.eval u = r
  rcases d with ⟨⟨_ | _, _, _, mode, _, delay, _⟩, _ | _, _ | _, _, _, _, _⟩ <;> cases r <;> try simp
  all_goals
    cases mode <;> simp [Indicator.fall, Indicator.rise, Indicator.activate, Indicator.deactivate]
    all_goals
      by_cases h0 : delay = 0
      · simp [h0]
      · by_cases h1 : delay = 255 <;> simp [h0, h1]

end Sys2Proof.Machine
end

