-- ==== Sys2Proof/Laws/OtherSlots.lean ====
section
/-!
SUPPORT. Operations on one slot leave every other slot record as it is.
-/

namespace Sys2Proof.Machine

/-- A frame that names no part of a slot record keeps the records whole. -/
theorem slot_of_keeps {fs : List Part} {s t : State} (h : Keeps fs s t)
    (hs : ∀ p ∈ Foot.slot, p ∉ fs := by decide +kernel) (j : SlotNo) : t.slot j = s.slot j := by
  have g : ∀ p ∈ Foot.slot, p.same s t := fun p hp => h p (hs p hp)
  have h1 := g .slotState (by decide) j
  have h2 := g .identity (by decide) j
  have h3 := g .lastAuth (by decide) j
  have h4 := g .consumed (by decide) j
  have h5 := g .committed (by decide) j
  have h6 := g .evidence (by decide) j
  have h7 := g .lowFlag (by decide) j
  have h8 := g .auditFail (by decide) j
  have h9 := g .owedCommit (by decide) j
  cases ha : t.slot j
  cases hb : s.slot j
  simp_all

namespace OtherSlotsSame

variable {i : SlotNo} {s t u : State}

theorem refl (i : SlotNo) (s : State) : OtherSlotsSame i s s := fun _ _ => rfl

theorem trans (h1 : OtherSlotsSame i s t) (h2 : OtherSlotsSame i t u) : OtherSlotsSame i s u :=
  fun j hj => (h2 j hj).trans (h1 j hj)

theorem of_keeps {fs : List Part} (h : Keeps fs s t) (hs : ∀ p ∈ Foot.slot, p ∉ fs := by decide +kernel) : OtherSlotsSame i s t :=
  fun j _ => slot_of_keeps h hs j

theorem ite {c : Prop} [Decidable c] (h1 : c → OtherSlotsSame i s t) (h2 : ¬c → OtherSlotsSame i s u) :
    OtherSlotsSame i s (if c then t else u) := by
  split
  · exact h1 ‹_›
  · exact h2 ‹_›

end OtherSlotsSame

theorem slot_setSlot_same (s : State) (i : SlotNo) (x : Slot) : (s.setSlot i x).slot i = x := nth_upd_same _ _ _

theorem slot_setSlot_other (s : State) {i j : SlotNo} (x : Slot) (h : j ≠ i) : (s.setSlot i x).slot j = s.slot j :=
  nth_upd_ne _ _ (fun e => h e.symm)

theorem setSlot_others (s : State) (i : SlotNo) (x : Slot) : OtherSlotsSame i s (s.setSlot i x) := fun _ h => slot_setSlot_other s x h

theorem setSlotState_others (s : State) (i : SlotNo) (st : SlotState) : OtherSlotsSame i s (s.setSlotState i st) := setSlot_others s i _

theorem raise_others (i : SlotNo) (k : EventKind) (a : Subject) (d : Nat) (s : State) : OtherSlotsSame i s (raise k a d s) :=
  .of_keeps (raise_keeps k a d s)

theorem settle_slot (s : State) (j : SlotNo) : (settle s).slot j = s.slot j := slot_of_keeps (settle_keeps s) (by decide +kernel) j

theorem serveOwedCommit_others (i : SlotNo) (s : State) : OtherSlotsSame i s (serveOwedCommit i s) := by
  unfold serveOwedCommit
  dsimp only
  repeat' (refine OtherSlotsSame.ite (fun _ => ?_) (fun _ => ?_))
  · exact .refl i s
  · exact .refl i s
  · exact .refl i s
  · exact setSlot_others s i _
  · exact (setSlot_others s i _).trans (.of_keeps (request_keeps i _ _))
  · exact setSlot_others s i _

theorem withdrawSlot_others (i : SlotNo) (s : State) : OtherSlotsSame i s (withdrawSlot i s) := by
  unfold withdrawSlot
  dsimp only
  exact .ite (fun _ => (OtherSlotsSame.of_keeps (setLine_keeps s _ _)).trans (serveOwedCommit_others i _))
    (fun _ => .of_keeps (setLine_keeps s _ _))

/-- The end of an audit touches only the slot it held. -/
theorem auditEnd_others {i : SlotNo} (r : Option AbortReason) (s : State) (h : s.audit.slot = some i) :
    OtherSlotsSame i s (auditEnd r s) := by
  unfold auditEnd
  rw [h]
  dsimp only
  refine OtherSlotsSame.trans ?_ (raise_others i _ _ _ _)
  refine OtherSlotsSame.trans ?_ (serveOwedCommit_others i _)
  exact (OtherSlotsSame.of_keeps (setAudit_keeps s _)).trans (.of_keeps (withdrawRead_keeps i _))

theorem heldSlot_slot {s : State} {i : SlotNo} (h : heldSlot s = some i) : s.audit.slot = some i := by
  unfold heldSlot at h
  split at h
  · exact h
  · cases h

theorem auditCheck_others (i : SlotNo) (s : State) : OtherSlotsSame i s (auditCheck i s) := by
  unfold auditCheck
  split
  · rename_i h
    have hs := heldSlot_slot h
    dsimp only
    exact .ite (fun _ => .refl i s) (fun _ => .ite (fun _ => auditEnd_others _ s hs) (fun _ => auditEnd_others _ s hs))
  · exact .refl i s

theorem reportSlot_others (i j : SlotNo) (s : State) : OtherSlotsSame i s (reportSlot s j) := .of_keeps (reportSlot_keeps s j)

theorem slotChecks_others (i : SlotNo) (s : State) : OtherSlotsSame i s (slotChecks i s) :=
  (auditCheck_others i s).trans (.of_keeps (retireCheck_keeps i _))

theorem slotReported_others (i : SlotNo) (s : State) : OtherSlotsSame i s (slotReported i s) :=
  (reportSlot_others i i s).trans (slotChecks_others i _)

theorem slotChanged_others (i : SlotNo) (s : State) : OtherSlotsSame i s (slotChanged i s) :=
  ((reportSlot_others i i s).trans (.of_keeps (runFor_keeps i _))).trans (slotChecks_others i _)

theorem pressureTest_others (i : SlotNo) (s : State) : OtherSlotsSame i s (pressureTest i s) := by
  unfold pressureTest
  dsimp only
  refine .ite (fun h => (setSlot_others s i _).trans (auditEnd_others _ _ ?_)) (fun _ => .refl i s)
  exact heldSlot_slot h.1

theorem trigger_others (i : SlotNo) (o : Origin) (s : State) : OtherSlotsSame i s (trigger i o s).1 := by
  unfold trigger
  split
  · exact .refl i s
  · split
    · exact (setSlot_others s i _).trans (pressureTest_others i _)
    · split
      · exact setSlot_others s i _
      · exact .of_keeps (place_keeps i _ _ _ s)

theorem triggerIfBehind_others (i : SlotNo) (s : State) : OtherSlotsSame i s (triggerIfBehind i s) :=
  .ite (fun _ => trigger_others i _ s) (fun _ => .refl i s)

theorem stepTrigger_others (i : SlotNo) (s : State) : OtherSlotsSame i s (stepTrigger i s) :=
  .ite (fun _ => trigger_others i _ s) (fun _ => .refl i s)

theorem lowCheck_others (i : SlotNo) (n : Nat) (s : State) : OtherSlotsSame i s (lowCheck i n s) :=
  .ite (fun _ => ((setSlot_others s i _).trans (reportSlot_others i i _)).trans (raise_others i _ _ _ _)) (fun _ => .refl i s)

theorem levelCheckCore_others (i : SlotNo) (lim : Limits) (s : State) : OtherSlotsSame i s (levelCheckCore i lim s).1 := by
  unfold levelCheckCore
  split
  · exact .refl i s
  · dsimp only
    have h := lowCheck_others i lim.low s
    split
    · split
      · exact (h.trans (setSlotState_others _ i _)).trans (raise_others i _ _ _ _)
      · exact h
    · exact h

theorem levelCheck_others (i : SlotNo) (s : State) : OtherSlotsSame i s (levelCheck i s) :=
  .ite (fun _ => (levelCheckCore_others i _ s).trans (slotChanged_others i _)) (fun _ => levelCheckCore_others i _ s)

theorem growEvidence_others (i : SlotNo) (m : Evidence) (s : State) : OtherSlotsSame i s (growEvidence i m s) :=
  ((setSlot_others s i _).trans (reportSlot_others i i _)).trans (raise_others i _ _ _ _)

theorem addEvidenceCore_others (i : SlotNo) (m : Evidence) (p : Bool) (s : State) : OtherSlotsSame i s (addEvidenceCore i m p s).1 := by
  unfold addEvidenceCore
  dsimp only
  split
  · exact .refl i s
  · have h1 : OtherSlotsSame i s (match (s.slot i).serial? with
        | some serial =>
          if ((s.slot i).holds || p) = true then historyEvidence serial m (growEvidence i m s) else growEvidence i m s
        | none => growEvidence i m s) := by
      have h0 := growEvidence_others i m s
      split
      · exact .ite (fun _ => h0.trans (.of_keeps (historyEvidence_keeps _ m _))) (fun _ => h0)
      · exact h0
    split
    · exact h1.trans (setSlotState_others _ i _)
    · exact h1

theorem addEvidence_others (i : SlotNo) (m : Evidence) (s : State) : OtherSlotsSame i s (addEvidence i m s) :=
  .ite (fun _ => (addEvidenceCore_others i m _ s).trans (slotChanged_others i _)) (fun _ => addEvidenceCore_others i m _ s)

theorem rejectCore_others (i : SlotNo) (r : RejectReason) (s : State) : OtherSlotsSame i s (rejectCore i r s) :=
  ((setSlotState_others s i _).trans (withdrawSlot_others i _)).trans (raise_others i _ _ _ _)

theorem reject_others (i : SlotNo) (r : RejectReason) (s : State) : OtherSlotsSame i s (reject i r s) :=
  (rejectCore_others i r s).trans (slotChanged_others i _)

theorem faultCore_others (i : SlotNo) (r : FaultReason) (k : TxKind) (s : State) : OtherSlotsSame i s (faultCore i r k s) :=
  (((setSlotState_others s i _).trans (withdrawSlot_others i _)).trans (.of_keeps (historyFault_keeps i _))).trans
    (raise_others i _ _ _ _)

end Sys2Proof.Machine
end

