-- ==== Sys2Proof/Laws/Debits.lean ====
section
/-!
SUPPORT. What a debit does to the counters and to the consumed amounts (R30, R32, R33, R36).
-/

namespace Sys2Proof.Machine

theorem counter_setCounters_same (s : State) (c : ChannelNo) (x : Counters) : (s.setCounters c x).counter c = x := nth_upd_same _ _ _

theorem counter_setCounters_other (s : State) {c d : ChannelNo} (x : Counters) (h : d ≠ c) :
    (s.setCounters c x).counter d = s.counter d := nth_upd_ne _ _ (fun e => h e.symm)

theorem counter_of_keeps {fs : List Part} {s t : State} (h : Keeps fs s t) (h1 : Part.counters ∉ fs := by decide +kernel)
    (c : ChannelNo) : t.counter c = s.counter c := by
  unfold State.counter
  rw [(h .counters h1 : t.meter.counters = s.meter.counters)]

theorem consumed_of_keeps {fs : List Part} {s t : State} (h : Keeps fs s t) (h1 : Part.consumed ∉ fs := by decide +kernel)
    (i : SlotNo) : (t.slot i).consumed = (s.slot i).consumed := h .consumed h1 i

theorem reported_keeps (c : ChannelNo) (a : Option SlotNo) (m n : Nat) (s : State) :
    Keeps (.debitFlags :: Foot.raise ++ Foot.report) s
      (reportUnattributed c a m (reportOverdraw c a n (reportMeter s c))) :=
  ((reportMeter_keeps s c).mono.trans (reportOverdraw_keeps c a n _).mono).trans (reportUnattributed_keeps c a m _).mono

/-- A placing places the whole amount. -/
theorem placing_sum (s : State) (c : ChannelNo) (d : Nat) :
    (placing s c d).taken + (placing s c d).overdraw + (placing s c d).unattributed = d := by
  unfold placing
  split
  · simp
  · dsimp only
    split
    · dsimp only; omega
    · simp

theorem placing_zero (s : State) (c : ChannelNo) : placing s c 0 = { taken := 0, overdraw := 0, unattributed := 0 } := by
  unfold placing
  split
  · rfl
  · dsimp only
    split <;> simp

theorem placing_inactive {s : State} {c : ChannelNo} (h : (s.chan c).active = none) (d : Nat) : (placing s c d).taken = 0 := by
  unfold placing
  rw [h]

/-- R33: the counters after a debit. -/
theorem debit_counter (c : ChannelNo) (d : Nat) (s : State) :
    (debit c d s).counter c =
      { s.counter c with
        debited := (s.counter c).debited + (placing s c d).taken
        overdraw := (s.counter c).overdraw + (placing s c d).overdraw
        unattributed := (s.counter c).unattributed + (placing s c d).unattributed } := by
  unfold debit
  split
  · rename_i h
    subst h
    rw [placing_zero]
    rfl
  · dsimp only
    set p := placing s c d
    set s1 := s.setCounters c
      { s.counter c with
        debited := (s.counter c).debited + p.taken, overdraw := (s.counter c).overdraw + p.overdraw,
        unattributed := (s.counter c).unattributed + p.unattributed } with hs1
    have h1 : s1.counter c = _ := counter_setCounters_same s c _
    rw [← h1]
    split
    · split
      · exact counter_of_keeps (reported_keeps _ _ _ _ _) (by decide +kernel) c
      · rw [counter_of_keeps (afterDebit_keeps _ _) (by decide +kernel), counter_of_keeps (reported_keeps _ _ _ _ _) (by decide +kernel)]
        rfl
    · exact counter_of_keeps (reported_keeps _ _ _ _ _) (by decide +kernel) c

theorem debit_counter_other {c e : ChannelNo} (d : Nat) (s : State) (h : e ≠ c) : (debit c d s).counter e = s.counter e := by
  unfold debit
  split
  · rfl
  · dsimp only
    have h1 : ∀ x, (s.setCounters c x).counter e = s.counter e := fun x => counter_setCounters_other s x h
    split
    · split
      · rw [counter_of_keeps (reported_keeps _ _ _ _ _) (by decide +kernel), h1]
      · rw [counter_of_keeps (afterDebit_keeps _ _) (by decide +kernel), counter_of_keeps (reported_keeps _ _ _ _ _) (by decide +kernel)]
        exact h1 _
    · rw [counter_of_keeps (reported_keeps _ _ _ _ _) (by decide +kernel), h1]

/-- R33: the consumed amounts after a debit. -/
theorem debit_consumed (c : ChannelNo) (d : Nat) (s : State) (i : SlotNo) :
    ((debit c d s).slot i).consumed =
      (s.slot i).consumed + if (s.chan c).active = some i then (placing s c d).taken else 0 := by
  unfold debit
  split
  · rename_i h
    subst h
    rw [placing_zero]
    simp
  · dsimp only
    split
    · rename_i a ha
      split
      · rename_i h0
        rw [consumed_of_keeps (reported_keeps _ _ _ _ _) (by decide +kernel)]
        simp only [h0, ite_self, Nat.add_zero]
        rfl
      · rw [consumed_of_keeps (afterDebit_keeps _ _) (by decide +kernel), consumed_of_keeps (reported_keeps _ _ _ _ _) (by decide +kernel)]
        by_cases hi : i = a
        · subst hi
          rw [slot_setSlot_same, ha, if_pos rfl]
          rfl
        · rw [slot_setSlot_other _ _ hi, if_neg (by rw [ha]; simp [Ne.symm hi]), Nat.add_zero]
          rfl
    · rename_i ha
      rw [consumed_of_keeps (reported_keeps _ _ _ _ _) (by decide +kernel), if_neg (by rw [ha]; simp), Nat.add_zero]
      rfl

/-- R32: the counters after `v` vu. -/
theorem addVolume_counter (c : ChannelNo) (v : Nat) (s : State) :
    (addVolume c v s).counter c =
      { metered := (s.counter c).metered + v
        debited := (s.counter c).debited + (placing s c (((s.counter c).remainder + v) / 10000)).taken
        overdraw := (s.counter c).overdraw + (placing s c (((s.counter c).remainder + v) / 10000)).overdraw
        unattributed := (s.counter c).unattributed + (placing s c (((s.counter c).remainder + v) / 10000)).unattributed
        remainder := ((s.counter c).remainder + v) % 10000 } := by
  unfold addVolume
  dsimp only
  rw [debit_counter, counter_setCounters_same]
  rfl

theorem addVolume_counter_other {c e : ChannelNo} (v : Nat) (s : State) (h : e ≠ c) : (addVolume c v s).counter e = s.counter e := by
  unfold addVolume
  dsimp only
  rw [debit_counter_other _ _ h, counter_setCounters_other _ _ h]

theorem addVolume_consumed (c : ChannelNo) (v : Nat) (s : State) (i : SlotNo) :
    ((addVolume c v s).slot i).consumed =
      (s.slot i).consumed +
        if (s.chan c).active = some i then (placing s c (((s.counter c).remainder + v) / 10000)).taken else 0 := by
  unfold addVolume
  dsimp only
  rw [debit_consumed]
  rfl

end Sys2Proof.Machine
end

