-- ==== Sys2Proof/Laws/Events.lean ====
section
/-!
SUPPORT. The events that an operation raises: how they compose, and one lemma for each operation of Machine/Bus.lean and
Machine/Supply.lean that raises any.
-/

namespace Sys2Proof.Machine

/-! ## Composition -/

/-- From `s` to `t` exactly these events are raised, and what decides how events are taken is the same. -/
def Emits (s t : State) (l : List Raised) : Prop :=
  t.events.routes = s.events.routes ∧ t.mgmt.partTime = s.mgmt.partTime ∧ Raises s t l

/-- From `s` to `t` only events of these kinds are raised. -/
def EmitsOnly (kinds : List EventKind) (s t : State) : Prop := ∃ l, (∀ e ∈ l, e.1 ∈ kinds) ∧ Emits s t l

/-- An event taken by the routes and at the part time of `s`, behind a given queue. -/
def queueStep (s : State) (q : List Event) (e : Raised) : List Event :=
  if (nth s.events.routes e.1.idx).queue then
    let x : Event := { time := s.mgmt.partTime, kind := e.1, subject := e.2.1, detail := e.2.2 }
    if q.length < 256 then q ++ [x] else q.tail ++ [x]
  else q

theorem queueAfter_eq (s : State) (l : List Raised) : queueAfter s l = l.foldl (queueStep s) s.events.queue := by
  unfold queueAfter
  congr 1
  funext q e
  unfold queueStep EventUnit.enqueue
  dsimp only
  repeat' split
  all_goals rfl

theorem queueStep_congr {s t : State} (h1 : t.events.routes = s.events.routes) (h2 : t.mgmt.partTime = s.mgmt.partTime) :
    queueStep t = queueStep s := by
  funext q e
  unfold queueStep
  rw [h1, h2]

namespace Emits
variable {s t u : State} {l m : List Raised}

theorem raises (h : Emits s t l) : Raises s t l := h.2.2

theorem refl (s : State) : Emits s s [] := ⟨rfl, rfl, rfl⟩

theorem trans (h1 : Emits s t l) (h2 : Emits t u m) : Emits s u (l ++ m) := by
  obtain ⟨a1, a2, a3⟩ := h1
  obtain ⟨b1, b2, b3⟩ := h2
  refine ⟨b1.trans a1, b2.trans a2, ?_⟩
  unfold Raises at *
  rw [b3, queueAfter_eq, queueAfter_eq, queueStep_congr a1 a2, List.foldl_append, a3, queueAfter_eq]

/-- What changes neither the queue nor how events are taken raises none. -/
theorem of_keeps {fs : List Part} (h : Keeps fs s t) (h1 : Part.eventQueue ∉ fs := by decide +kernel)
    (h2 : Part.routes ∉ fs := by decide +kernel) (h3 : Part.partTime ∉ fs := by decide +kernel) : Emits s t [] :=
  ⟨h _ h2, h _ h3, (h _ h1).1⟩

theorem ite {c : Prop} [Decidable c] (h1 : c → Emits s t l) (h2 : ¬c → Emits s u m) :
    Emits s (if c then t else u) (if c then l else m) := by
  by_cases h : c
  · simpa [h] using h1 h
  · simpa [h] using h2 h

/-- Silent before. -/
theorem after_silent (h1 : Emits s t []) (h2 : Emits t u l) : Emits s u l := by simpa using h1.trans h2

/-- Silent after. -/
theorem then_silent (h1 : Emits s t l) (h2 : Emits t u []) : Emits s u l := by simpa using h1.trans h2

theorem only {kinds : List EventKind} (h : Emits s t l) (hk : ∀ e ∈ l, e.1 ∈ kinds) : EmitsOnly kinds s t := ⟨l, hk, h⟩

end Emits

namespace EmitsOnly
variable {s t u : State} {ks js : List EventKind}

theorem refl (ks : List EventKind) (s : State) : EmitsOnly ks s s := (Emits.refl s).only (by simp)

theorem silent (h : Emits s t []) : EmitsOnly ks s t := h.only (by simp)

theorem trans (h1 : EmitsOnly ks s t) (h2 : EmitsOnly ks t u) : EmitsOnly ks s u := by
  obtain ⟨l, a, h1⟩ := h1
  obtain ⟨m, b, h2⟩ := h2
  exact ⟨l ++ m, fun e he => (List.mem_append.1 he).elim (a e) (b e), h1.trans h2⟩

theorem mono (h : EmitsOnly ks s t) (hs : ∀ k ∈ ks, k ∈ js := by decide +kernel) : EmitsOnly js s t := by
  obtain ⟨l, a, h⟩ := h
  exact ⟨l, fun e he => hs _ (a e he), h⟩

theorem ite {c : Prop} [Decidable c] (h1 : c → EmitsOnly ks s t) (h2 : ¬c → EmitsOnly ks s u) :
    EmitsOnly ks s (if c then t else u) := by
  by_cases h : c
  · simpa [h] using h1 h
  · simpa [h] using h2 h

theorem foldl {α : Type} (f : State → α → State) (xs : List α) (h : ∀ s x, EmitsOnly ks s (f s x)) (s : State) :
    EmitsOnly ks s (xs.foldl f s) := by
  induction xs generalizing s with
  | nil => exact refl ks s
  | cons x xs ih => exact (h s x).trans (ih (f s x))

/-- The events of `l` first, and then others of the kinds only. -/
theorem raisesThen {l : List Raised} (h1 : Emits s t l) (h2 : EmitsOnly ks t u) : RaisesThen s u l ks := by
  obtain ⟨m, a, h2⟩ := h2
  exact ⟨m, a, (h1.trans h2).raises⟩

end EmitsOnly

/-! ## One event -/

theorem raise_emits (k : EventKind) (a : Subject) (d : Nat) (s : State) : Emits s (raise k a d s) [(k, a, d)] :=
  ⟨(raise_keeps k a d s).get .routes, (raise_keeps k a d s).get .partTime, raise_queue k a d s⟩

theorem raise_only (k : EventKind) (a : Subject) (d : Nat) (s : State) : EmitsOnly [k] s (raise k a d s) :=
  (raise_emits k a d s).only (by simp)

theorem settle_emits (s : State) : Emits s (settle s) [] := .of_keeps (settle_keeps s)
theorem kickLane_emits (s : State) : Emits s (kickLane s) [] := .of_keeps (kickLane_keeps s)
theorem reply_emits (r : Request) (st : Status) (res : List Byte) (s : State) : Emits s (r.reply st res s) [] :=
  .of_keeps (reply_keeps r st res s)

/-! ## The end of an audit and commit triggers -/

/-- R153: the ending that AUDIT_FINISHED names. -/
def endingOf : Option AbortReason → AuditState
  | none => .done
  | some a => .aborted a

theorem auditEnd_emits (r : Option AbortReason) (s : State) :
    Emits s (auditEnd r s) (match s.audit.slot with
      | none => []
      | some i =>
        [(.auditFinished, .slot i, (endingOf r).endingNo * 2 ^ 24 + s.audit.failing.length * 2 ^ 16 + s.audit.passes)]) := by
  unfold auditEnd
  cases s.audit.slot with
  | none => exact .refl s
  | some i =>
    dsimp only
    refine Emits.after_silent (Emits.of_keeps (fs := .audit :: Foot.owed) ?_) (raise_emits _ _ _ _)
    exact ((setAudit_keeps s _).mono.trans (withdrawRead_keeps _ _).mono).trans (serveOwedCommit_keeps _ _).mono

theorem auditEnd_only (r : Option AbortReason) (s : State) : EmitsOnly [.auditFinished] s (auditEnd r s) :=
  (auditEnd_emits r s).only (by split <;> simp)

theorem pressureTest_only (i : SlotNo) (s : State) : EmitsOnly [.auditFinished] s (pressureTest i s) :=
  .ite (fun _ => (EmitsOnly.silent (.of_keeps (setOwedCommit_keeps i _ s))).trans (auditEnd_only _ _)) (fun _ => .refl _ s)

theorem trigger_only (i : SlotNo) (o : Origin) (s : State) : EmitsOnly [.auditFinished] s (trigger i o s).1 := by
  have silent : Emits s (setOwedCommit i true s) [] := .of_keeps (setOwedCommit_keeps i _ s)
  unfold trigger
  split
  · exact .refl _ s
  · split
    · exact (EmitsOnly.silent silent).trans (pressureTest_only i _)
    · split
      · exact .silent silent
      · exact .silent (.of_keeps (place_keeps i _ _ _ s))

theorem triggerIfBehind_only (i : SlotNo) (s : State) : EmitsOnly [.auditFinished] s (triggerIfBehind i s) :=
  .ite (fun _ => trigger_only i _ s) (fun _ => .refl _ s)

theorem stepTrigger_only (i : SlotNo) (s : State) : EmitsOnly [.auditFinished] s (stepTrigger i s) :=
  .ite (fun _ => trigger_only i _ s) (fun _ => .refl _ s)

theorem modeTriggers_only (s : State) : EmitsOnly [.auditFinished] s (modeTriggers s) :=
  .foldl _ _ (fun t i => triggerIfBehind_only i t) s

/-! ## Selection runs and reports -/

theorem runEvent_emits (c : ChannelNo) (was now : Channel) (h : was.ink ≠ 0) (s : State) :
    Emits s (runEvent c was now.active s) (runEvents c was now) := by
  unfold runEvent runEvents
  rw [if_neg h]
  cases was.active <;> cases now.active <;> dsimp only
  · exact .ite (fun _ => raise_emits _ _ _ s) (fun _ => .refl s)
  · exact raise_emits _ _ _ s
  · exact raise_emits _ _ _ s
  · exact .ite (fun _ => .refl s) (fun _ => raise_emits _ _ _ s)

/-- R5: the events of a run are those of the record it finds and the record it leaves. -/
theorem applyRun_emits (c : ChannelNo) (s : State) : Emits s (applyRun c s) (runEvents c (s.chan c) ((applyRun c s).chan c)) := by
  by_cases h : (s.chan c).ink = 0
  · have e : runEvents c (s.chan c) ((applyRun c s).chan c) = [] := by unfold runEvents; rw [if_pos h]
    rw [e]
    unfold applyRun
    rw [if_pos h]
    refine Emits.of_keeps (fs := .supply :: Foot.report) (Keeps.trans ?_ (reportSupply_keeps _ c).mono)
    exact setChan_keeps_of _ s c _ (fun _ => rfl) (fun _ => ⟨rfl, rfl⟩) (fun h => absurd (by decide) h) (fun _ => rfl)
      (fun _ => rfl)
  · have hs : ∀ x : Channel, (s.setChan c x).chan c = x := fun x => by rw [chan_setChan, if_pos rfl]
    have keepChan : ∀ {fs : List Part} {a b : State}, Keeps fs a b →
        (∀ p ∈ [Part.channelSetup, .channelLimits, .supply, .selectionHeld, .switched], p ∉ fs) → b.chan c = a.chan c := by
      intro fs a b hk hp
      have h1 := hk .channelSetup (hp _ (by simp)) c
      have h2 := hk .channelLimits (hp _ (by simp)) c
      have h3 := hk .supply (hp _ (by simp)) c
      have h4 := hk .selectionHeld (hp _ (by simp)) c
      have h5 := hk .switched (hp _ (by simp)) c
      simp only [Channel.setup, Channel.supply, Prod.mk.injEq] at h1 h3
      cases hb : b.chan c; cases ha : a.chan c
      simp_all
    let next := choose s (s.chan c)
    let st : ChannelState := if next.isSome then .feeding else .starved
    let x : Channel :=
      { s.chan c with active := next, state := st, gate := gateFor s.mgmt.mode st,
                      switched := (s.chan c).switched || (s.chan c).active != next }
    let s2 := runEvent c (s.chan c) next (reportSupply (s.setChan c x) c)
    have e2 : Emits s s2 (runEvents c (s.chan c) x) := by
      refine Emits.after_silent ?_ (runEvent_emits c _ x h _)
      refine Emits.of_keeps (fs := [.supply, .switched] ++ Foot.report) (Keeps.trans ?_ (reportSupply_keeps _ c).mono)
      exact setChan_keeps_of _ s c x (fun _ => rfl) (fun _ => ⟨rfl, rfl⟩) (fun h => absurd (by decide) h) (fun _ => rfl)
        (fun h => absurd (by decide) h)
    have c2 : s2.chan c = x := by
      rw [keepChan (runEvent_keeps c _ _ _) (by decide +kernel), keepChan (reportSupply_keeps _ c) (by decide +kernel), hs]
    have main : ∀ t, Keeps [.handover] s2 t → t = applyRun c s →
        Emits s (applyRun c s) (runEvents c (s.chan c) ((applyRun c s).chan c)) := by
      rintro t hk rfl
      rw [keepChan hk (by decide +kernel), c2]
      exact e2.then_silent (.of_keeps hk)
    unfold applyRun at main ⊢
    rw [if_neg h] at main ⊢
    refine main _ ?_ rfl
    dsimp only
    split
    · exact Keeps.ite (fun _ => .refl _ _) (fun _ => retireCheck_keeps _ _)
    · exact .refl _ _

theorem applyRun_only (c : ChannelNo) (s : State) : EmitsOnly runKinds s (applyRun c s) :=
  (applyRun_emits c s).only (by
    unfold runEvents runKinds
    repeat' split
    all_goals simp)

theorem selectionRun_only (c : ChannelNo) (s : State) : EmitsOnly runKinds s (selectionRun c s) :=
  .ite (fun _ => .silent (.of_keeps (fs := [.selectionHeld]) (setChan_keeps_of _ s c _ (fun _ => rfl) (fun _ => ⟨rfl, rfl⟩)
    (fun _ => rfl) (fun h => absurd (by decide) h) (fun _ => rfl)))) (fun _ => applyRun_only c s)

theorem runAll_only (s : State) : EmitsOnly runKinds s (runAll s) := .foldl _ _ (fun t c => selectionRun_only c t) s

theorem auditCheck_only (i : SlotNo) (s : State) : EmitsOnly [.auditFinished] s (auditCheck i s) := by
  unfold auditCheck
  dsimp only
  repeat' (refine EmitsOnly.ite (fun _ => ?_) (fun _ => ?_))
  · exact .refl _ s
  · exact auditEnd_only _ s
  · exact auditEnd_only _ s
  · exact .refl _ s

theorem slotChecks_only (i : SlotNo) (s : State) : EmitsOnly [.auditFinished] s (slotChecks i s) :=
  (auditCheck_only i s).trans (.silent (.of_keeps (retireCheck_keeps i _)))

theorem runFor_only (i : SlotNo) (s : State) : EmitsOnly runKinds s (runFor i s) := by
  unfold runFor
  split
  · exact selectionRun_only _ s
  · exact .refl _ s

theorem slotChanged_only (i : SlotNo) (s : State) : EmitsOnly changeKinds s (slotChanged i s) :=
  ((EmitsOnly.silent (.of_keeps (reportSlot_keeps s i))).trans (runFor_only i _).mono).trans (slotChecks_only i _).mono

/-! ## Levels, evidence, debits -/

theorem lowCheck_emits (i : SlotNo) (low : Nat) (s : State) :
    Emits s (lowCheck i low s)
      (if (s.slot i).remaining ≤ low ∧ (s.slot i).low = false then [(.levelLow, .slot i, (s.slot i).remaining)] else []) := by
  unfold lowCheck
  refine Emits.ite (fun _ => Emits.after_silent (.of_keeps (fs := .lowFlag :: Foot.report) ?_) (raise_emits _ _ _ _))
    (fun _ => .refl s)
  refine Keeps.trans ?_ (reportSlot_keeps _ i).mono
  exact setSlot_keeps_of _ s i _ (fun _ => rfl) (fun _ => rfl) (fun _ => rfl) (fun _ => rfl) (fun _ => ⟨rfl, rfl⟩) (fun _ => rfl)
    (fun h => absurd (by decide) h) (fun _ => rfl) (fun _ => rfl)

theorem levelCheckCore_only (i : SlotNo) (lim : Limits) (s : State) :
    EmitsOnly [.levelLow, .slotDepleted] s (levelCheckCore i lim s).1 := by
  have low : EmitsOnly [.levelLow, .slotDepleted] s (lowCheck i lim.low s) :=
    (lowCheck_emits i lim.low s).only (by split <;> simp)
  unfold levelCheckCore
  dsimp only
  split
  · exact .refl _ s
  · split
    · split
      · exact (low.trans (.silent (.of_keeps (setSlotState_keeps _ i _)))).trans (raise_only _ _ _ _).mono
      · exact low
    · exact low

theorem levelCheck_only (i : SlotNo) (s : State) :
    EmitsOnly ([.levelLow, .slotDepleted] ++ changeKinds) s (levelCheck i s) :=
  .ite (fun _ => (levelCheckCore_only i _ s).mono.trans (slotChanged_only i _).mono) (fun _ => (levelCheckCore_only i _ s).mono)

theorem growEvidence_emits (i : SlotNo) (m : Evidence) (s : State) :
    Emits s (growEvidence i m s) [(.refillSuspect, .slot i, m.no)] := by
  refine Emits.after_silent (.of_keeps (fs := .evidence :: Foot.report) ?_) (raise_emits _ _ _ _)
  refine Keeps.trans ?_ (reportSlot_keeps _ i).mono
  exact setSlot_keeps_of _ s i _ (fun _ => rfl) (fun _ => rfl) (fun _ => rfl) (fun _ => rfl) (fun _ => ⟨rfl, rfl⟩)
    (fun h => absurd (by decide) h) (fun _ => rfl) (fun _ => rfl) (fun _ => rfl)

theorem rejectCore_emits (i : SlotNo) (r : RejectReason) (s : State) :
    Emits s (rejectCore i r s) [(.authRejected, .slot i, r.no)] :=
  Emits.after_silent (.of_keeps (fs := .slotState :: Foot.owed)
    ((setSlotState_keeps s i _).mono.trans (withdrawSlot_keeps i _).mono)) (raise_emits _ _ _ _)

theorem faultCore_emits (i : SlotNo) (r : FaultReason) (k : TxKind) (s : State) :
    Emits s (faultCore i r k s) [(.slotFaulted, .slot i, r.no * 256 + k.wireNo)] :=
  Emits.after_silent (.of_keeps (fs := .slotState :: Foot.owed ++ Foot.history)
    (((setSlotState_keeps s i _).mono.trans (withdrawSlot_keeps i _).mono).trans (historyFault_keeps i _).mono))
    (raise_emits _ _ _ _)

theorem addEvidenceCore_emits (i : SlotNo) (m : Evidence) (passing : Bool) (s : State) :
    Emits s (addEvidenceCore i m passing s).1 (if (s.slot i).evidence.has m then [] else [(.refillSuspect, .slot i, m.no)]) := by
  have entry (n : Option Nat) (held : Bool) (u : State) :
      Emits u (match n with | some serial => if held then historyEvidence serial m u else u | none => u) [] := by
    cases n with
    | none => exact .refl u
    | some serial =>
      cases held
      · exact .refl u
      · exact .of_keeps (historyEvidence_keeps serial m u)
  have state (st : Option SlotState) (u : State) :
      Emits u (match st with | some x => (u.setSlotState i x, true) | none => (u, false) : State × Bool).1 [] := by
    cases st with
    | none => exact .refl u
    | some x => exact .of_keeps (setSlotState_keeps u i x)
  by_cases h : (s.slot i).evidence.has m
  · have : (addEvidenceCore i m passing s).1 = s := by unfold addEvidenceCore; exact congrArg Prod.fst (if_pos h)
    rw [this, if_pos h]
    exact .refl s
  · rw [if_neg h]
    unfold addEvidenceCore
    rw [if_neg h]
    exact ((growEvidence_emits i m s).then_silent (entry _ _ _)).then_silent (state _ _)

/-- R102: what entry to REJECTED raises. -/
theorem reject_raises (i : SlotNo) (r : RejectReason) (s : State) :
    RaisesThen s (reject i r s) [(.authRejected, .slot i, r.no)] changeKinds :=
  EmitsOnly.raisesThen (rejectCore_emits i r s) (slotChanged_only i _)

theorem afterDebit_only (i : SlotNo) (s : State) :
    EmitsOnly ([.levelLow, .slotDepleted] ++ changeKinds) s (afterDebit i s) :=
  ((levelCheck_only i s).trans (stepTrigger_only i _).mono).trans (pressureTest_only i _).mono

end Sys2Proof.Machine
end

