-- ==== Sys2Proof/Laws/Lines.lean ====
section
/-!
SUPPORT. What a line keeps of its transactions: a pending request stays pending when owed marks are served and when an audit ends,
a placed one is pending, and neither touches the flight, the counters or the condition of a line.
-/

namespace Sys2Proof.Machine

/-! ## One line -/

/-- A request of a kind for a slot is queued, owed or in flight on the line. -/
def Line.pends (ln : Line) (i : SlotNo) (k : TxKind) : Bool :=
  ln.queue.any (fun e => e.slot == i && e.kind == k) || (nth ln.owed (posOf i)).has k ||
    match ln.flight with
    | some fl => fl.entry.slot == i && fl.entry.kind == k
    | none => false

theorem isPending_eq (s : State) (i : SlotNo) (k : TxKind) : isPending s i k = (s.line (lineOf i)).pends i k := rfl

/-- The two lines agree but for their queues and owed marks. -/
def Line.SameRest (a b : Line) : Prop := b.condition = a.condition ∧ b.flight = a.flight ∧ b.counters = a.counters

theorem Line.SameRest.refl (a : Line) : a.SameRest a := ⟨rfl, rfl, rfl⟩

theorem Line.SameRest.trans {a b c : Line} (h1 : a.SameRest b) (h2 : b.SameRest c) : a.SameRest c :=
  ⟨h2.1.trans h1.1, h2.2.1.trans h1.2.1, h2.2.2.trans h1.2.2⟩

theorem Line.serveOne_rest (l : LineNo) (ln : Line) : ln.SameRest (ln.serveOne l) := by
  unfold Line.serveOne
  split
  · split
    · exact .refl ln
    · exact ⟨rfl, rfl, rfl⟩
  · exact .refl ln

theorem Line.foldl_rest {α : Type} (f : Line → α → Line) (hf : ∀ (ln : Line) (x : α), ln.SameRest (f ln x)) (xs : List α) (ln : Line) :
    ln.SameRest (xs.foldl f ln) := by
  induction xs generalizing ln with
  | nil => exact .refl ln
  | cons x xs ih => exact (hf ln x).trans (ih _)

theorem Line.serveMarks_rest (l : LineNo) (ln : Line) : ln.SameRest (ln.serveMarks l) :=
  Line.foldl_rest _ (fun x _ => Line.serveOne_rest l x) _ ln

theorem Owed.has_clear (o : Owed) (k k' : TxKind) : (o.clear k').has k = (o.has k && decide (k ≠ k')) := by
  cases k <;> cases k' <;> simp [Owed.clear, Owed.has]

theorem Owed.has_set (o : Owed) (e : TxEntry) (k : TxKind) (h : e.kind = .recordRead → e.record.isSome) :
    (o.set e).has k = (o.has k || decide (e.kind = k)) := by
  obtain ⟨slot, kind, rq, og, rec⟩ := e
  cases kind <;> cases k <;> simp [Owed.set, Owed.has] <;> (split <;> simp_all)

theorem Owed.first_has {o : Owed} {k : TxKind} (h : o.first = some k) : o.has k = true := by
  have := List.find?_some h
  exact this

theorem Line.nextOwed_has {ln : Line} {p : TagPos} {k : TxKind} (h : ln.nextOwed = some (p, k)) : (nth ln.owed p).has k = true := by
  unfold Line.nextOwed at h
  obtain ⟨q, _, hq⟩ := List.exists_of_findSome?_eq_some h
  cases hf : (nth ln.owed q).first with
  | none => rw [hf] at hq; cases hq
  | some k' =>
    rw [hf] at hq
    cases hq
    exact Owed.first_has hf

theorem slotAt_lineOf (i : SlotNo) : slotAt (lineOf i) (posOf i) = i := by
  apply Fin.ext
  simp only [slotAt, lineOf, posOf]
  omega

theorem posOf_slotAt (l : LineNo) (p : TagPos) : posOf (slotAt l p) = p := by
  apply Fin.ext
  simp only [slotAt, posOf]
  omega

theorem lineOf_slotAt (l : LineNo) (p : TagPos) : lineOf (slotAt l p) = l := by
  apply Fin.ext
  simp only [slotAt, lineOf]
  omega

/-- Serving a mark changes no answer of `pends` for a slot of the line. -/
theorem Line.serveOne_pends (i : SlotNo) (k : TxKind) (ln : Line) : (ln.serveOne (lineOf i)).pends i k = ln.pends i k := by
  unfold Line.serveOne
  split
  · split
    · rfl
    · rename_i p k' hn
      have hh := Line.nextOwed_has hn
      unfold Line.pends
      dsimp only
      rw [List.any_append]
      by_cases hp : p = posOf i
      · subst hp
        rw [nth_upd_same, Owed.has_clear]
        by_cases hk : k = k'
        · subst hk
          simp [slotAt_lineOf, hh]
        · have hb : (k' == k) = false := beq_eq_false_iff_ne.mpr (Ne.symm hk)
          simp [hk, hb]
      · rw [nth_upd_ne _ _ hp]
        have : slotAt (lineOf i) p ≠ i := by
          intro e
          apply hp
          rw [← posOf_slotAt (lineOf i) p, e]
        have hb : (slotAt (lineOf i) p == i) = false := beq_eq_false_iff_ne.mpr this
        simp [hb]
  · rfl

theorem Line.serveMarks_pends (i : SlotNo) (k : TxKind) (ln : Line) : (ln.serveMarks (lineOf i)).pends i k = ln.pends i k := by
  have h : ∀ (xs : List Nat) (x : Line),
      (xs.foldl (fun y _ => Line.serveOne (lineOf i) y) x).pends i k = x.pends i k := by
    intro xs
    induction xs with
    | nil => intro x; rfl
    | cons a as ih =>
      intro x
      rw [List.foldl_cons, ih]
      exact Line.serveOne_pends i k x
  exact h _ ln

/-! ## Placing -/

theorem Line.place_rest (ln : Line) (e : TxEntry) : ln.SameRest (ln.place e).1 := by
  unfold Line.place
  split
  · split <;> exact ⟨rfl, rfl, rfl⟩
  · split <;> exact ⟨rfl, rfl, rfl⟩

theorem Line.place_pends (ln : Line) (e : TxEntry) (ho : e.origin = .other)
    (hr : e.kind = .recordRead → e.record.isSome) : (ln.place e).1.pends e.slot e.kind = true := by
  unfold Line.place
  rw [ho]
  dsimp only
  split
  · simp [Line.pends]
  · simp [Line.pends, Owed.has_set _ _ _ hr]

theorem line_setLine_same (s : State) (l : LineNo) (x : Line) : (s.setLine l x).line l = x := nth_upd_same _ _ _

theorem line_setLine_other (s : State) {l m : LineNo} (x : Line) (h : m ≠ l) : (s.setLine l x).line m = s.line m :=
  nth_upd_ne _ _ (fun e => h e.symm)

theorem place_pending (i : SlotNo) (k : TxKind) (rec : Option RecNo) (s : State) (hr : k = .recordRead → rec.isSome) :
    isPending (place i k .other rec s).1 i k = true := by
  rw [isPending_eq]
  unfold place
  dsimp only
  rw [line_setLine_same]
  exact Line.place_pends _ { slot := i, kind := k, requester := k.requester, origin := .other, record := rec } rfl hr

theorem request_pending (i : SlotNo) (k : TxKind) (s : State) (hk : k ≠ .recordRead) : isPending (request i k s) i k = true :=
  place_pending i k none s (fun h => absurd h hk)

/-- Placing another request leaves pending what was pending. -/
theorem Line.place_pends_mono (ln : Line) (e : TxEntry) (i : SlotNo) (k : TxKind) (h : ln.pends i k = true) :
    (ln.place e).1.pends i k = true := by
  have hq : ∀ x : Line, ({ x with queue := x.queue ++ [e] } : Line).pends i k = true ∨ x.pends i k = false := by
    intro x
    unfold Line.pends
    dsimp only
    rw [List.any_append]
    cases x.queue.any (fun e => e.slot == i && e.kind == k) <;> cases (nth x.owed (posOf i)).has k <;> simp
    · cases x.flight <;> simp
      tauto
  have hset : ∀ o : Owed, o.has k = true → (o.set e).has k = true := by
    intro o ho
    obtain ⟨slot, kind, rq, og, rec⟩ := e
    cases kind <;> cases k <;> simp_all [Owed.set, Owed.has] <;> (split <;> simp_all)
  unfold Line.place
  split <;> split
  · rcases hq ln with h' | h' <;> simp_all
  · exact h
  · rcases hq ln with h' | h' <;> simp_all
  · unfold Line.pends at h ⊢
    dsimp only
    by_cases hp : posOf e.slot = posOf i
    · rw [hp, nth_upd_same]
      cases ho : (nth ln.owed (posOf i)).has k
      · rw [ho] at h
        simp only [Bool.or_false, Bool.or_eq_true] at h ⊢
        tauto
      · rw [hset _ ho]
        simp
    · rw [nth_upd_ne _ _ hp]
      exact h

theorem place_pending_mono (j : SlotNo) (k' : TxKind) (o : Origin) (rec : Option RecNo) (s : State) (i : SlotNo) (k : TxKind)
    (h : isPending s i k = true) : isPending (place j k' o rec s).1 i k = true := by
  rw [isPending_eq] at h ⊢
  unfold place
  dsimp only
  by_cases hl : lineOf i = lineOf j
  · rw [hl, line_setLine_same]
    rw [hl] at h
    exact Line.place_pends_mono _ _ i k h
  · rw [line_setLine_other _ _ hl]
    exact h

/-! ## Pending under the operations on slots -/

/-- `t` has every request pending that `s` has, but for the audit's reads. -/
def PendingKept (s t : State) : Prop := ∀ i k, k ≠ .recordRead → isPending s i k = true → isPending t i k = true

theorem PendingKept.refl (s : State) : PendingKept s s := fun _ _ _ h => h

theorem PendingKept.trans {s t u : State} (h1 : PendingKept s t) (h2 : PendingKept t u) : PendingKept s u :=
  fun i k hk h => h2 i k hk (h1 i k hk h)

theorem pendingKept_of_lines {s t : State} (h : t.lines = s.lines) : PendingKept s t := by
  intro i k _ hp
  unfold isPending State.line at hp ⊢
  rw [h]
  exact hp

theorem isPending_of_lines {s t : State} (h : t.lines = s.lines) (i : SlotNo) (k : TxKind) : isPending t i k = isPending s i k := by
  unfold isPending State.line
  rw [h]

theorem pendingKept_of_keeps {fs : List Part} {s t : State} (h : Keeps fs s t) (h1 : Part.lines ∉ fs := by decide +kernel) :
    PendingKept s t := pendingKept_of_lines (h _ h1)

theorem pendingKept_request (j : SlotNo) (k : TxKind) (s : State) : PendingKept s (request j k s) :=
  fun i k' _ h => place_pending_mono j k _ _ s i k' h

theorem PendingKept.ite {c : Prop} [Decidable c] {s t u : State} (h1 : c → PendingKept s t) (h2 : ¬c → PendingKept s u) :
    PendingKept s (if c then t else u) := by
  split
  · exact h1 ‹_›
  · exact h2 ‹_›

theorem setOwedCommit_lines (i : SlotNo) (b : Bool) (s : State) : (setOwedCommit i b s).lines = s.lines := rfl

theorem pendingKept_setOwedCommit (i : SlotNo) (b : Bool) (s : State) : PendingKept s (setOwedCommit i b s) :=
  pendingKept_of_lines (setOwedCommit_lines i b s)

theorem pendingKept_serveOwedCommit (i : SlotNo) (s : State) : PendingKept s (serveOwedCommit i s) := by
  unfold serveOwedCommit
  dsimp only
  split_ifs
  · exact .refl s
  · exact .refl s
  · exact .refl s
  · exact pendingKept_setOwedCommit i _ s
  · exact (pendingKept_setOwedCommit i _ s).trans (pendingKept_request i _ _)
  · exact pendingKept_setOwedCommit i _ s

/-- A line with a slot's read withdrawn keeps every other kind pending. -/
theorem Line.withdrawRead_pends (ln : Line) (i j : SlotNo) (k : TxKind) (hk : k ≠ .recordRead) (h : ln.pends i k = true) :
    ({ ln.withdraw (fun e => e.slot == j && e.kind == .recordRead) with
        owed := upd ln.owed (posOf j) { nth ln.owed (posOf j) with recordRead := none } } : Line).pends i k = true := by
  unfold Line.pends Line.withdraw at *
  dsimp only at *
  simp only [Bool.or_eq_true] at h ⊢
  rcases h with (h | h) | h
  · left; left
    rw [List.any_eq_true] at h ⊢
    obtain ⟨e, he, hm⟩ := h
    refine ⟨e, List.mem_filter.mpr ⟨he, ?_⟩, hm⟩
    simp only [Bool.and_eq_true, beq_iff_eq] at hm
    simp [hm.2, hk]
  · left; right
    by_cases hp : posOf j = posOf i
    · rw [hp, nth_upd_same]
      cases k <;> simp_all [Owed.has]
    · rw [nth_upd_ne _ _ hp]
      exact h
  · right
    cases hf : ln.flight with
    | none => rw [hf] at h; simp at h
    | some fl =>
      rw [hf] at h
      simp only [Bool.and_eq_true, beq_iff_eq] at h
      simp [h.1, h.2, hk]

theorem pendingKept_withdrawRead (j : SlotNo) (s : State) : PendingKept s (withdrawRead j s) := by
  intro i k hk h
  rw [isPending_eq] at h ⊢
  unfold withdrawRead
  dsimp only
  by_cases hl : lineOf i = lineOf j
  · rw [← hl, line_setLine_same, Line.serveMarks_pends]
    exact Line.withdrawRead_pends _ i j k hk h
  · rw [line_setLine_other _ _ hl]
    exact h

theorem pendingKept_auditEnd (r : Option AbortReason) (s : State) : PendingKept s (auditEnd r s) := by
  unfold auditEnd
  split
  · exact .refl s
  · dsimp only
    refine PendingKept.trans ?_ (pendingKept_of_keeps (raise_keeps _ _ _ _))
    refine PendingKept.trans ?_ (pendingKept_serveOwedCommit _ _)
    exact (pendingKept_of_lines rfl).trans (pendingKept_withdrawRead _ _)

theorem pendingKept_auditCheck (i : SlotNo) (s : State) : PendingKept s (auditCheck i s) := by
  unfold auditCheck
  dsimp only
  exact .ite (fun _ => .ite (fun _ => .refl s) (fun _ => .ite (fun _ => pendingKept_auditEnd _ s) (fun _ => pendingKept_auditEnd _ s)))
    (fun _ => .refl s)

theorem pendingKept_slotChecks (i : SlotNo) (s : State) : PendingKept s (slotChecks i s) :=
  (pendingKept_auditCheck i s).trans (pendingKept_of_keeps (retireCheck_keeps i _))

theorem pendingKept_slotReported (i : SlotNo) (s : State) : PendingKept s (slotReported i s) :=
  (pendingKept_of_keeps (reportSlot_keeps s i)).trans (pendingKept_slotChecks i _)

theorem pendingKept_slotChanged (i : SlotNo) (s : State) : PendingKept s (slotChanged i s) :=
  ((pendingKept_of_keeps (reportSlot_keeps s i)).trans (pendingKept_of_keeps (runFor_keeps i _))).trans (pendingKept_slotChecks i _)

theorem pendingKept_settle (s : State) : PendingKept s (settle s) := pendingKept_of_keeps (settle_keeps s)

theorem isPending_settle (s : State) (i : SlotNo) (k : TxKind) : isPending (settle s) i k = isPending s i k :=
  isPending_of_lines ((settle_keeps s) .lines (by decide +kernel)) i k

end Sys2Proof.Machine
end

