-- ==== Sys2Proof/Laws/RequestFrames.lean ====
section
/-!
SUPPORT. What serving each request may change, and the frame of every command (`exec_keeps`).
-/

namespace Sys2Proof.Machine

/-- A refusal, or an answer that reports a record, changes only the answer's parts. -/
theorem reply_keeps_in {fs : List Part} (r : Request) (st : Status) (res : List Byte) (s : State)
    (hf : ∀ p ∈ Foot.answer, p ∈ fs := by decide +kernel) : Keeps fs s (r.reply st res s) := (reply_keeps r st res s).mono hf

theorem enterWrite_keeps (r : Request) (n : KeyNo) (e : KeyEntry) (s : State) :
    Keeps [.keyWrites] s (enterWrite r n e s) := by
  unfold enterWrite KeyStore.enter KeyStore.advance
  dsimp only
  split <;>
  · intro p hp
    cases p <;> first
      | exact absurd (by decide) hp | exact rfl | exact ⟨rfl, rfl⟩ | exact ⟨rfl, rfl, rfl⟩ | exact fun _ => rfl
      | exact fun _ => ⟨rfl, rfl⟩

theorem imageUpdate_keeps (s : State) (k : Tbl 8 KeyEntry) :
    Keeps [.keyImage] s { s with keys := { s.keys with image := k } } := by
  intro p hp
  cases p <;> first
    | exact absurd (by decide) hp | exact rfl | exact ⟨rfl, rfl⟩ | exact ⟨rfl, rfl, rfl⟩ | exact fun _ => rfl
    | exact fun _ => ⟨rfl, rfl⟩

theorem denyUpdate_keeps (s : State) (d : List DenyRange) :
    Keeps [.denyList] s { s with deny := d } := by
  intro p hp
  cases p <;> first
    | exact absurd (by decide) hp | exact rfl | exact ⟨rfl, rfl⟩ | exact ⟨rfl, rfl, rfl⟩ | exact fun _ => rfl
    | exact fun _ => ⟨rfl, rfl⟩

theorem testArmUpdate_keeps (s : State) (a : Option SlotNo) :
    Keeps [.testArm] s { s with testArm := a } := by
  intro p hp
  cases p <;> first
    | exact absurd (by decide) hp | exact rfl | exact ⟨rfl, rfl⟩ | exact ⟨rfl, rfl, rfl⟩ | exact fun _ => rfl
    | exact fun _ => ⟨rfl, rfl⟩

theorem setAction_keeps (a : PendingAction) (s : State) :
    Keeps [.scheduleState] s (setAction a s) := by
  intro p hp
  cases p <;> first
    | exact absurd (by decide) hp | exact rfl | exact ⟨rfl, rfl⟩ | exact ⟨rfl, rfl, rfl⟩ | exact fun _ => rfl
    | exact fun _ => ⟨rfl, rfl⟩

theorem eventDrop_keeps (n : Nat) (s : State) :
    Keeps Foot.raise s { s with events := { s.events with queue := s.events.queue.drop n, overrun := false } } := by
  intro p hp
  cases p <;> first
    | exact absurd (by decide) hp | exact rfl | exact ⟨rfl, rfl⟩ | exact ⟨rfl, rfl, rfl⟩ | exact fun _ => rfl
    | exact fun _ => ⟨rfl, rfl⟩

theorem partTimeUpdate_keeps (s : State) (n : Nat) :
    Keeps [.partTime] s { s with mgmt := { s.mgmt with partTime := n } } := by
  intro p hp
  cases p <;> first
    | exact absurd (by decide) hp | exact rfl | exact ⟨rfl, rfl⟩ | exact ⟨rfl, rfl, rfl⟩ | exact fun _ => rfl
    | exact fun _ => ⟨rfl, rfl⟩

theorem resetPendingUpdate_keeps (s : State) :
    Keeps [.resetPending] s { s with mgmt := { s.mgmt with resetPending := true } } := by
  intro p hp
  cases p <;> first
    | exact absurd (by decide) hp | exact rfl | exact ⟨rfl, rfl⟩ | exact ⟨rfl, rfl, rfl⟩ | exact fun _ => rfl
    | exact fun _ => ⟨rfl, rfl⟩

theorem resumeAudit_keeps (s : State) : Keeps Foot.finding s (resumeAudit s) := by
  refine Keeps.trans ?_ (auditContinue_keeps _)
  exact (setAudit_keeps s _).mono

theorem unknownRequest_keeps (s : State) : Keeps (.requests :: Foot.answer) s (unknownRequest s) := by
  unfold unknownRequest
  split
  · exact .refl _ s
  · exact Keeps.ite (fun _ => (takeRequest_keeps _ s).mono.trans (reply_keeps_in _ _ _ _)) (fun _ => .refl _ s)

theorem channelWrite_keeps (r : Request) (s : State) : Keeps (.channelSetup :: Foot.reject ++ Foot.checked ++ Foot.answer) s (channelWrite r s) := by
  unfold channelWrite
  repeat' split
  all_goals with_reducible first
    | exact reply_keeps_in r _ _ s | exact .refl _ s
    | exact Keeps.trans (writeChannel_keeps _ _ _ _ s).mono (reply_keeps_in r _ _ _)

theorem limitsWrite_keeps (vs : List Nat) (r : Request) (s : State) : Keeps (.channelLimits :: Foot.checked ++ Foot.answer) s (limitsWrite vs r s) := by
  unfold limitsWrite
  repeat' split
  all_goals with_reducible first
    | exact reply_keeps_in r _ _ s | exact .refl _ s
    | exact Keeps.trans (writeLimits_keeps _ _ s).mono (reply_keeps_in r _ _ _)

theorem channelRead_keeps (vs : List Nat) (r : Request) (s : State) : Keeps (Foot.answer) s (channelRead vs r s) := by
  unfold channelRead
  repeat' split
  all_goals with_reducible first
    | exact reply_keeps_in r _ _ s | exact .refl _ s

theorem headMapWrite_keeps (r : Request) (s : State) : Keeps ([.headMap, .unmappedFlags] ++ Foot.answer) s (headMapWrite r s) := by
  unfold headMapWrite
  repeat' split
  all_goals with_reducible first
    | exact reply_keeps_in r _ _ s | exact .refl _ s
    | exact Keeps.trans (writeMap_keeps _ _ s).mono (reply_keeps_in r _ _ _)

theorem headMapRead_keeps (vs : List Nat) (r : Request) (s : State) : Keeps (Foot.answer) s (headMapRead vs r s) := by
  unfold headMapRead
  exact reply_keeps_in r _ _ s

theorem volumeWrite_keeps (vs : List Nat) (r : Request) (s : State) : Keeps (.volumeTable :: Foot.answer) s (volumeWrite vs r s) := by
  unfold volumeWrite
  dsimp only
  repeat' split
  all_goals with_reducible first
    | exact reply_keeps_in r _ _ s | exact .refl _ s
    | exact Keeps.trans (writeVolumes_keeps _ _ _ s).mono (reply_keeps_in r _ _ _)

theorem volumeRead_keeps (vs : List Nat) (r : Request) (s : State) : Keeps (Foot.answer) s (volumeRead vs r s) := by
  unfold volumeRead
  repeat' split
  all_goals with_reducible first
    | exact reply_keeps_in r _ _ s | exact .refl _ s

theorem countersClear_keeps (vs : List Nat) (r : Request) (s : State) :
    Keeps ([.counters, .debitFlags] ++ Foot.report ++ Foot.answer) s (countersClear vs r s) := by
  unfold countersClear
  repeat' split
  all_goals with_reducible first
    | exact reply_keeps_in r _ _ s | exact .refl _ s
    | exact Keeps.trans (Keeps.foldl _ _ clearCounters_keeps s).mono (reply_keeps_in r _ _ _)

theorem channelDebit_keeps (vs : List Nat) (r : Request) (s : State) : Keeps (Foot.debit ++ Foot.answer) s (channelDebit vs r s) := by
  unfold channelDebit
  dsimp only
  repeat' split
  all_goals with_reducible first
    | exact reply_keeps_in r _ _ s | exact .refl _ s
    | exact Keeps.trans (addVolume_keeps _ _ s).mono (reply_keeps_in r _ _ _)

theorem swathLimitWrite_keeps (vs : List Nat) (r : Request) (s : State) : Keeps (.swathLimit :: Foot.answer) s (swathLimitWrite vs r s) := by
  unfold swathLimitWrite
  repeat' split
  all_goals with_reducible first
    | exact reply_keeps_in r _ _ s | exact .refl _ s
    | exact Keeps.trans (writeSwathLimit_keeps _ s).mono (reply_keeps_in r _ _ _)

theorem swathRead_keeps (vs : List Nat) (r : Request) (s : State) : Keeps (Foot.answer) s (swathRead vs r s) := by
  unfold swathRead
  repeat' split
  all_goals with_reducible first
    | exact reply_keeps_in r _ _ s | exact .refl _ s

theorem lineRead_keeps (vs : List Nat) (r : Request) (s : State) : Keeps (Foot.answer) s (lineRead vs r s) := by
  unfold lineRead
  repeat' split
  all_goals with_reducible first
    | exact reply_keeps_in r _ _ s | exact .refl _ s

theorem keyLoad_keeps (r : Request) (s : State) : Keeps (.keyWrites :: Foot.answer) s (keyLoad r s) := by
  unfold keyLoad
  repeat' split
  all_goals with_reducible first
    | exact reply_keeps_in r _ _ s | exact .refl _ s
    | exact (enterWrite_keeps r _ _ s).mono

theorem keyRevoke_keeps (vs : List Nat) (r : Request) (s : State) : Keeps ([.keyImage, .keyWrites] ++ Foot.reject ++ Foot.changed ++ Foot.answer) s (keyRevoke vs r s) := by
  unfold keyRevoke
  dsimp only
  repeat' split
  all_goals with_reducible first
    | exact reply_keeps_in r _ _ s | exact .refl _ s
    | exact Keeps.trans (Keeps.trans (imageUpdate_keeps s _).mono (rejectAll_keeps _ _ _).mono) (enterWrite_keeps r _ _ _).mono

theorem keyStatus_keeps (vs : List Nat) (r : Request) (s : State) : Keeps (Foot.answer) s (keyStatus vs r s) := by
  unfold keyStatus
  exact reply_keeps_in r _ _ s

theorem denyAdd_keeps (vs : List Nat) (r : Request) (s : State) : Keeps (.denyList :: Foot.reject ++ Foot.changed ++ Foot.answer) s (denyAdd vs r s) := by
  unfold denyAdd
  dsimp only
  repeat' split
  all_goals with_reducible first
    | exact reply_keeps_in r _ _ s | exact .refl _ s
    | exact Keeps.trans (Keeps.trans (denyUpdate_keeps s _).mono (reply_keeps_in r _ _ _)) (rejectAll_keeps _ _ _).mono

theorem denyRemove_keeps (vs : List Nat) (r : Request) (s : State) : Keeps (.denyList :: Foot.answer) s (denyRemove vs r s) := by
  unfold denyRemove
  repeat' split
  all_goals with_reducible first
    | exact reply_keeps_in r _ _ s | exact .refl _ s
    | exact Keeps.trans (denyUpdate_keeps s _).mono (reply_keeps_in r _ _ _)

theorem denyRead_keeps (vs : List Nat) (r : Request) (s : State) : Keeps (Foot.answer) s (denyRead vs r s) := by
  unfold denyRead
  exact reply_keeps_in r _ _ s

theorem slotRead_keeps (vs : List Nat) (r : Request) (s : State) : Keeps (Foot.answer) s (slotRead vs r s) := by
  unfold slotRead
  repeat' split
  all_goals with_reducible first
    | exact reply_keeps_in r _ _ s | exact .refl _ s

theorem slotRetry_keeps (vs : List Nat) (r : Request) (s : State) : Keeps (Foot.slot ++ Foot.history ++ Foot.changed ++ Foot.answer) s (slotRetry vs r s) := by
  unfold slotRetry
  repeat' split
  all_goals with_reducible first
    | exact reply_keeps_in r _ _ s | exact .refl _ s
    | exact Keeps.trans (retrySlot_keeps _ s).mono (reply_keeps_in r _ _ _)

theorem slotRechallenge_keeps (vs : List Nat) (r : Request) (s : State) : Keeps (.slotState :: Foot.changed ++ Foot.answer) s (slotRechallenge vs r s) := by
  unfold slotRechallenge
  repeat' split
  all_goals with_reducible first
    | exact reply_keeps_in r _ _ s | exact .refl _ s
    | exact Keeps.trans (startRechallenge_keeps _ _ s).mono (reply_keeps_in r _ _ _)

theorem testWriteArm_keeps (vs : List Nat) (r : Request) (s : State) : Keeps (.testArm :: Foot.answer) s (testWriteArm vs r s) := by
  unfold testWriteArm
  repeat' split
  all_goals with_reducible first
    | exact reply_keeps_in r _ _ s | exact .refl _ s
    | exact Keeps.trans (testArmUpdate_keeps s _).mono (reply_keeps_in r _ _ _)

theorem historyRead_keeps (vs : List Nat) (r : Request) (s : State) : Keeps (Foot.answer) s (historyRead vs r s) := by
  unfold historyRead
  dsimp only
  repeat' split
  all_goals with_reducible first
    | exact reply_keeps_in r _ _ s | exact .refl _ s

theorem historyErase_keeps (vs : List Nat) (r : Request) (s : State) : Keeps (Foot.history ++ Foot.answer) s (historyErase vs r s) := by
  unfold historyErase
  repeat' split
  all_goals with_reducible first
    | exact reply_keeps_in r _ _ s | exact .refl _ s
    | exact Keeps.trans (eraseHistory_keeps s).mono (reply_keeps_in r _ _ _)

theorem auditStart_keeps (vs : List Nat) (r : Request) (s : State) : Keeps (Foot.read ++ Foot.answer) s (auditStart vs r s) := by
  unfold auditStart
  repeat' split
  all_goals with_reducible first
    | exact reply_keeps_in r _ _ s | exact .refl _ s
    | exact Keeps.trans (startAudit_keeps _ _ _ s).mono (reply_keeps_in r _ _ _)

theorem auditContinueRequest_keeps (vs : List Nat) (r : Request) (s : State) : Keeps (Foot.finding ++ Foot.answer) s (auditContinueRequest vs r s) := by
  unfold auditContinueRequest
  repeat' split
  all_goals with_reducible first
    | exact reply_keeps_in r _ _ s | exact .refl _ s
    | exact Keeps.trans (resumeAudit_keeps s).mono (reply_keeps_in r _ _ _)

theorem auditStop_keeps (vs : List Nat) (r : Request) (s : State) : Keeps (Foot.commit ++ Foot.answer) s (auditStop vs r s) := by
  unfold auditStop
  repeat' split
  all_goals with_reducible first
    | exact reply_keeps_in r _ _ s | exact .refl _ s
    | exact Keeps.trans (setAudit_keeps s _).mono (reply_keeps_in r _ _ _)
    | exact Keeps.trans (auditEnd_keeps _ s).mono (reply_keeps_in r _ _ _)

theorem auditRead_keeps (vs : List Nat) (r : Request) (s : State) : Keeps (Foot.answer) s (auditRead vs r s) := by
  unfold auditRead
  exact reply_keeps_in r _ _ s

theorem scheduleRun_keeps (vs : List Nat) (r : Request) (s : State) : Keeps (.scheduleState :: Foot.answer) s (scheduleRun vs r s) := by
  unfold scheduleRun
  repeat' split
  all_goals with_reducible first
    | exact reply_keeps_in r _ _ s | exact .refl _ s
    | exact Keeps.trans (setAction_keeps _ s).mono (reply_keeps_in r _ _ _)

theorem scheduleHalt_keeps (vs : List Nat) (r : Request) (s : State) : Keeps (.scheduleState :: Foot.answer) s (scheduleHalt vs r s) := by
  unfold scheduleHalt
  repeat' split
  all_goals with_reducible first
    | exact reply_keeps_in r _ _ s | exact .refl _ s
    | exact Keeps.trans (setAction_keeps _ s).mono (reply_keeps_in r _ _ _)

theorem scheduleWrite_keeps (vs : List Nat) (r : Request) (s : State) : Keeps (.scheduleTable :: Foot.answer) s (scheduleWrite vs r s) := by
  unfold scheduleWrite
  repeat' split
  all_goals with_reducible first
    | exact reply_keeps_in r _ _ s | exact .refl _ s
    | exact Keeps.trans (setEntry_keeps _ _ s).mono (reply_keeps_in r _ _ _)

theorem scheduleRead_keeps (vs : List Nat) (r : Request) (s : State) : Keeps (Foot.answer) s (scheduleRead vs r s) := by
  unfold scheduleRead
  dsimp only
  repeat' split
  all_goals with_reducible first
    | exact reply_keeps_in r _ _ s | exact .refl _ s

theorem eventRead_keeps (vs : List Nat) (r : Request) (s : State) : Keeps (Foot.raise ++ Foot.answer) s (eventRead vs r s) := by
  unfold eventRead
  repeat' split
  all_goals with_reducible first
    | exact reply_keeps_in r _ _ s | exact .refl _ s
    | exact Keeps.trans (eventDrop_keeps _ s).mono (reply_keeps_in r _ _ _)

theorem eventInsert_keeps (vs : List Nat) (r : Request) (s : State) : Keeps (Foot.raise ++ Foot.answer) s (eventInsert vs r s) := by
  unfold eventInsert
  dsimp only
  repeat' split
  all_goals with_reducible first
    | exact reply_keeps_in r _ _ s | exact .refl _ s
    | exact Keeps.trans (raise_keeps _ _ _ s).mono (reply_keeps_in r _ _ _)

theorem routeWrite_keeps (vs : List Nat) (r : Request) (s : State) : Keeps (.routes :: Foot.answer) s (routeWrite vs r s) := by
  unfold routeWrite
  repeat' split
  all_goals with_reducible first
    | exact reply_keeps_in r _ _ s | exact .refl _ s
    | exact Keeps.trans (Keeps.foldl _ _ (setRoute_keeps _) s).mono (reply_keeps_in r _ _ _)

theorem routeRead_keeps (vs : List Nat) (r : Request) (s : State) : Keeps (Foot.answer) s (routeRead vs r s) := by
  unfold routeRead
  exact reply_keeps_in r _ _ s

theorem conditionRead_keeps (vs : List Nat) (r : Request) (s : State) : Keeps ([.latches, .indicators] ++ Foot.answer) s (conditionRead vs r s) := by
  unfold conditionRead
  repeat' split
  all_goals with_reducible first
    | exact reply_keeps_in r _ _ s | exact .refl _ s
    | exact Keeps.trans (reloadLatches_keeps s).mono (reply_keeps_in r _ _ _)

theorem indicatorWrite_keeps (r : Request) (s : State) : Keeps (.indicators :: Foot.answer) s (indicatorWrite r s) := by
  unfold indicatorWrite
  dsimp only
  repeat' split
  all_goals with_reducible first
    | exact reply_keeps_in r _ _ s | exact .refl _ s
    | exact Keeps.trans (setIndicator_keeps s _ _).mono (reply_keeps_in r _ _ _)

theorem indicatorRelease_keeps (vs : List Nat) (r : Request) (s : State) : Keeps (.indicators :: Foot.answer) s (indicatorRelease vs r s) := by
  unfold indicatorRelease
  dsimp only
  repeat' split
  all_goals with_reducible first
    | exact reply_keeps_in r _ _ s | exact .refl _ s
    | exact Keeps.trans (Keeps.foldl _ _ releaseOne_keeps s).mono (reply_keeps_in r _ _ _)

theorem indicatorRead_keeps (vs : List Nat) (r : Request) (s : State) : Keeps (Foot.answer) s (indicatorRead vs r s) := by
  unfold indicatorRead
  exact reply_keeps_in r _ _ s

theorem modeSet_keeps (vs : List Nat) (r : Request) (s : State) : Keeps (.heldMode :: Foot.modeSet ++ Foot.answer) s (modeSet vs r s) := by
  unfold modeSet
  repeat' split
  all_goals with_reducible first
    | exact reply_keeps_in r _ _ s | exact .refl _ s
    | exact Keeps.trans (clearHeldMode_keeps s).mono (reply_keeps_in r _ _ _)
    | exact Keeps.trans (Keeps.trans (clearHeldMode_keeps s).mono (changeMode_keeps _ _ _).mono) (reply_keeps_in r _ _ _)

theorem statusRead_keeps (vs : List Nat) (r : Request) (s : State) : Keeps (Foot.answer) s (statusRead vs r s) := by
  unfold statusRead
  exact reply_keeps_in r _ _ s

theorem timeSet_keeps (vs : List Nat) (r : Request) (s : State) : Keeps (.partTime :: Foot.answer) s (timeSet vs r s) := by
  unfold timeSet
  repeat' split
  all_goals with_reducible first
    | exact reply_keeps_in r _ _ s | exact .refl _ s
    | exact Keeps.trans (partTimeUpdate_keeps s _).mono (reply_keeps_in r _ _ _)

theorem partReset_keeps (vs : List Nat) (r : Request) (s : State) : Keeps (.resetPending :: Foot.answer) s (partReset vs r s) := by
  unfold partReset
  exact Keeps.trans (resetPendingUpdate_keeps s).mono (reply_keeps_in r _ _ _)

theorem heardOpen_keeps (hdr : Byte) (id : BitVec 16) (s : State) : Keeps (.headOut :: Foot.heard ++ Foot.close) s
    (trackOpen id.toNat (forward (swathFrame 0x11#8 hdr id) (goodFrame s))) :=
  ((goodFrame_keeps s).mono.trans (forward_keeps _ _).mono).trans (trackOpen_keeps _ _).mono

theorem heardClose_keeps (hdr : Byte) (id : BitVec 16) (s : State) : Keeps (.headOut :: Foot.heard ++ Foot.close) s
    (trackClose id.toNat (forward (swathFrame 0x12#8 hdr id) (goodFrame s))) :=
  ((goodFrame_keeps s).mono.trans (forward_keeps _ _).mono).trans (trackClose_keeps _ _).mono

theorem expiry_keeps (s : State) :
    Keeps Foot.close s (if s.tracker.current.any OpenSwath.expired then closeSwath .expired s else s) :=
  Keeps.ite (fun _ => closeSwath_keeps _ s) (fun _ => .refl _ s)

theorem heardOther_keeps (f : LinkFrame) (s : State) : Keeps (.headOut :: Foot.heard) s
    (if (Instr.headControl f).wf then dispatchOther f (goodFrame s) else s) :=
  Keeps.ite (fun _ => (goodFrame_keeps s).mono.trans (dispatchOther_keeps f _).mono) (fun _ => .refl _ s)

theorem heardRequest_keeps (tag : Byte) (kind : BitVec 16) (args : List Byte) (s : State) :
    Keeps ([.requests, .responses] ++ Foot.heard) s (takeManagement tag kind args (goodFrame s)) :=
  (goodFrame_keeps s).mono.trans (takeManagement_keeps tag kind args _).mono

set_option maxHeartbeats 1000000 in
/-- R186 and every rule: a command that is no reset changes only the parts `mayChange` lists. -/
theorem exec_keeps (c : Instr) (s t : State) (hc : resets c = false) (h : exec c s = .next t) : Keeps (mayChange c) s t := by
  cases c <;> dsimp only [mayChange]
  case powerOn => cases hc
  case resetLine pins => cases hc
  case transmissionEnd pins => cases hc
  case powerLoss a b => cases hc
  case firing f => exact live_keeps h (firing_keeps f s).mono
  case swathOpen hdr id =>
    exact live_keeps (f := fun s => trackOpen id.toNat (forward (swathFrame 0x11#8 hdr id) (goodFrame s))) h (heardOpen_keeps hdr id s).mono
  case swathClose hdr id =>
    exact live_keeps (f := fun s => trackClose id.toNat (forward (swathFrame 0x12#8 hdr id) (goodFrame s))) h (heardClose_keeps hdr id s).mono
  case swathExpiry =>
    exact live_keeps (f := fun s => if s.tracker.current.any OpenSwath.expired then closeSwath .expired s else s) h (expiry_keeps s).mono
  case headControl f =>

    exact live_keeps (f := fun s => if (Instr.headControl f).wf then dispatchOther f (goodFrame s) else s) h (heardOther_keeps f s).mono
  case management tag kind args =>
    exact live_keeps (f := fun s => takeManagement tag kind args (goodFrame s)) h (heardRequest_keeps tag kind args s).mono
  case checkFailure k => exact live_keeps h (checkFailure_keeps k s).mono
  case lossOfFraming => exact live_keeps h (lossOfFraming_keeps s).mono
  case headStatus f => exact quiet_keeps h (headStatus_keeps f s).mono
  case returnCheckFailure k => exact quiet_keeps h (raise_keeps _ _ _ s).mono
  case headPortFramingLoss => exact quiet_keeps h (.refl _ s)
  case indicatorTimerExpiry i => exact quiet_keeps h (timerExpiry_keeps i s).mono
  case blinkPhase i => exact quiet_keeps h (blinkPhase_keeps i s).mono
  case contactClose i => exact live_keeps h (contactClose_keeps i s).mono
  case contactOpen i => exact live_keeps h (contactOpen_keeps i s).mono
  case settlingEnd i => exact live_keeps h (settlingEnd_keeps i s).mono
  case retirementHandover i => exact live_keeps h (retirementHandover_keeps i s).mono
  case transactionStart l => exact quiet_keeps h (transactionStart_keeps l s).mono
  case answerFrame l a => exact live_keeps h (answerFrame_keeps l a s).mono
  case answerTimeout l => exact live_keeps h (answerTimeout_keeps l s).mono
  case retryPauseEnd l => exact quiet_keeps h (retryPauseEnd_keeps l s).mono
  case lineStop l => exact quiet_keeps h (lineStop_keeps l s).mono
  case scanEnd => exact live_keeps h (scanEnd_keeps s).mono
  case historyWriteEnd => exact live_keeps h (historyWriteEnd_keeps s).mono
  case keyWriteEnd => exact quiet_keeps h (keyWriteEnd_keeps s).mono
  case scheduleTick => exact live_keeps h (scheduleTick_keeps s).mono
  case partTimeIncrement => exact quiet_keeps h (tickAll_keeps s).mono
  case unknownRequest => exact quiet_keeps h (unknownRequest_keeps s).mono
  case channelWrite => exact live_keeps h (serving_keeps _ _ s (fun r t => (channelWrite_keeps r t).mono))
  case channelLimitsWrite => exact live_keeps h (serving_keeps _ _ s (fun r t => withArgs_keeps _ _ r t (fun vs r t => (limitsWrite_keeps vs r t).mono)))
  case channelRead => exact quiet_keeps h (serving_keeps _ _ s (fun r t => withArgs_keeps _ _ r t (fun vs r t => (channelRead_keeps vs r t).mono)))
  case headMapWrite => exact quiet_keeps h (serving_keeps _ _ s (fun r t => (headMapWrite_keeps r t).mono))
  case headMapRead => exact quiet_keeps h (serving_keeps _ _ s (fun r t => withArgs_keeps _ _ r t (fun vs r t => (headMapRead_keeps vs r t).mono)))
  case volumeWrite => exact quiet_keeps h (serving_keeps _ _ s (fun r t => withArgs_keeps _ _ r t (fun vs r t => (volumeWrite_keeps vs r t).mono)))
  case volumeRead => exact quiet_keeps h (serving_keeps _ _ s (fun r t => withArgs_keeps _ _ r t (fun vs r t => (volumeRead_keeps vs r t).mono)))
  case channelCountersClear => exact live_keeps h (serving_keeps _ _ s (fun r t => withArgs_keeps _ _ r t (fun vs r t => (countersClear_keeps vs r t).mono)))
  case channelDebit => exact live_keeps h (serving_keeps _ _ s (fun r t => withArgs_keeps _ _ r t (fun vs r t => (channelDebit_keeps vs r t).mono)))
  case swathLimitWrite => exact quiet_keeps h (serving_keeps _ _ s (fun r t => withArgs_keeps _ _ r t (fun vs r t => (swathLimitWrite_keeps vs r t).mono)))
  case swathRead => exact quiet_keeps h (serving_keeps _ _ s (fun r t => withArgs_keeps _ _ r t (fun vs r t => (swathRead_keeps vs r t).mono)))
  case lineRead => exact quiet_keeps h (serving_keeps _ _ s (fun r t => withArgs_keeps _ _ r t (fun vs r t => (lineRead_keeps vs r t).mono)))
  case keyLoad => exact quiet_keeps h (serving_keeps _ _ s (fun r t => (keyLoad_keeps r t).mono))
  case keyRevoke => exact live_keeps h (serving_keeps _ _ s (fun r t => withArgs_keeps _ _ r t (fun vs r t => (keyRevoke_keeps vs r t).mono)))
  case keyStatus => exact quiet_keeps h (serving_keeps _ _ s (fun r t => withArgs_keeps _ _ r t (fun vs r t => (keyStatus_keeps vs r t).mono)))
  case denyAdd => exact live_keeps h (serving_keeps _ _ s (fun r t => withArgs_keeps _ _ r t (fun vs r t => (denyAdd_keeps vs r t).mono)))
  case denyRemove => exact quiet_keeps h (serving_keeps _ _ s (fun r t => withArgs_keeps _ _ r t (fun vs r t => (denyRemove_keeps vs r t).mono)))
  case denyRead => exact quiet_keeps h (serving_keeps _ _ s (fun r t => withArgs_keeps _ _ r t (fun vs r t => (denyRead_keeps vs r t).mono)))
  case slotRead => exact quiet_keeps h (serving_keeps _ _ s (fun r t => withArgs_keeps _ _ r t (fun vs r t => (slotRead_keeps vs r t).mono)))
  case slotRetry => exact live_keeps h (serving_keeps _ _ s (fun r t => withArgs_keeps _ _ r t (fun vs r t => (slotRetry_keeps vs r t).mono)))
  case slotRechallenge => exact live_keeps h (serving_keeps _ _ s (fun r t => withArgs_keeps _ _ r t (fun vs r t => (slotRechallenge_keeps vs r t).mono)))
  case testWriteArm => exact quiet_keeps h (serving_keeps _ _ s (fun r t => withArgs_keeps _ _ r t (fun vs r t => (testWriteArm_keeps vs r t).mono)))
  case historyRead => exact quiet_keeps h (serving_keeps _ _ s (fun r t => withArgs_keeps _ _ r t (fun vs r t => (historyRead_keeps vs r t).mono)))
  case historyErase => exact live_keeps h (serving_keeps _ _ s (fun r t => withArgs_keeps _ _ r t (fun vs r t => (historyErase_keeps vs r t).mono)))
  case auditStart => exact live_keeps h (serving_keeps _ _ s (fun r t => withArgs_keeps _ _ r t (fun vs r t => (auditStart_keeps vs r t).mono)))
  case auditContinue => exact live_keeps h (serving_keeps _ _ s (fun r t => withArgs_keeps _ _ r t (fun vs r t => (auditContinueRequest_keeps vs r t).mono)))
  case auditStop => exact live_keeps h (serving_keeps _ _ s (fun r t => withArgs_keeps _ _ r t (fun vs r t => (auditStop_keeps vs r t).mono)))
  case auditRead => exact quiet_keeps h (serving_keeps _ _ s (fun r t => withArgs_keeps _ _ r t (fun vs r t => (auditRead_keeps vs r t).mono)))
  case scheduleRun => exact quiet_keeps h (serving_keeps _ _ s (fun r t => withArgs_keeps _ _ r t (fun vs r t => (scheduleRun_keeps vs r t).mono)))
  case scheduleHalt => exact quiet_keeps h (serving_keeps _ _ s (fun r t => withArgs_keeps _ _ r t (fun vs r t => (scheduleHalt_keeps vs r t).mono)))
  case scheduleWrite => exact quiet_keeps h (serving_keeps _ _ s (fun r t => withArgs_keeps _ _ r t (fun vs r t => (scheduleWrite_keeps vs r t).mono)))
  case scheduleRead => exact quiet_keeps h (serving_keeps _ _ s (fun r t => withArgs_keeps _ _ r t (fun vs r t => (scheduleRead_keeps vs r t).mono)))
  case eventRead => exact quiet_keeps h (serving_keeps _ _ s (fun r t => withArgs_keeps _ _ r t (fun vs r t => (eventRead_keeps vs r t).mono)))
  case eventInsert => exact quiet_keeps h (serving_keeps _ _ s (fun r t => withArgs_keeps _ _ r t (fun vs r t => (eventInsert_keeps vs r t).mono)))
  case routeWrite => exact quiet_keeps h (serving_keeps _ _ s (fun r t => withArgs_keeps _ _ r t (fun vs r t => (routeWrite_keeps vs r t).mono)))
  case routeRead => exact quiet_keeps h (serving_keeps _ _ s (fun r t => withArgs_keeps _ _ r t (fun vs r t => (routeRead_keeps vs r t).mono)))
  case conditionRead => exact quiet_keeps h (serving_keeps _ _ s (fun r t => withArgs_keeps _ _ r t (fun vs r t => (conditionRead_keeps vs r t).mono)))
  case indicatorWrite => exact quiet_keeps h (serving_keeps _ _ s (fun r t => (indicatorWrite_keeps r t).mono))
  case indicatorRelease => exact quiet_keeps h (serving_keeps _ _ s (fun r t => withArgs_keeps _ _ r t (fun vs r t => (indicatorRelease_keeps vs r t).mono)))
  case indicatorRead => exact quiet_keeps h (serving_keeps _ _ s (fun r t => withArgs_keeps _ _ r t (fun vs r t => (indicatorRead_keeps vs r t).mono)))
  case modeSet => exact live_keeps h (serving_keeps _ _ s (fun r t => withArgs_keeps _ _ r t (fun vs r t => (modeSet_keeps vs r t).mono)))
  case statusRead => exact quiet_keeps h (serving_keeps _ _ s (fun r t => withArgs_keeps _ _ r t (fun vs r t => (statusRead_keeps vs r t).mono)))
  case timeSet => exact quiet_keeps h (serving_keeps _ _ s (fun r t => withArgs_keeps _ _ r t (fun vs r t => (timeSet_keeps vs r t).mono)))
  case partReset => exact quiet_keeps h (serving_keeps _ _ s (fun r t => withArgs_keeps _ _ r t (fun vs r t => (partReset_keeps vs r t).mono)))

end Sys2Proof.Machine
end

