-- ==== Sys2Proof/Tests/Slice0.lean ====
section
/-!
SUPPORT. Tests: ill-formed commands, steps of the manual's worked examples, and for every statement with hypotheses a witness, clause
by clause, that concrete states and operands meet them.
-/

namespace Sys2Proof.Tests
open Sys2Proof.Machine

set_option Elab.async false

/-! ## Ill-formed commands -/

theorem test_firing_for_no_head_refused :
    (Instr.firing { hdr := 32#8, waveform := 0, nozzles := 0, line := 0, codes := List.replicate 16 0#8 }).wf = false := by
  decide +kernel

theorem test_firing_short_codes_refused :
    (Instr.firing { hdr := 0#8, waveform := 0, nozzles := 1, line := 0, codes := List.replicate 16 0#8 }).wf = false := by
  decide +kernel

theorem test_firing_full_codes_accepted :
    (Instr.firing { hdr := 31#8, waveform := 0, nozzles := 1, line := 0, codes := List.replicate 32 0#8 }).wf = true := by
  decide +kernel

theorem test_head_control_swath_kind_refused : (Instr.headControl { kind := 0x11#8, hdr := 0#8, body := [0#8, 1#8] }).wf = false := by
  decide +kernel

theorem test_head_control_long_body_refused :
    (Instr.headControl { kind := 0x20#8, hdr := 0#8, body := List.replicate 2049 0#8 }).wf = false := by decide +kernel

theorem test_head_control_short_management_refused :
    (Instr.headControl { kind := 0x14#8, hdr := 41#8, body := [1#8, 0#8] }).wf = false := by decide +kernel

theorem test_management_long_arguments_refused : (Instr.management 0 42 (List.replicate 2046 0#8)).wf = false := by decide +kernel

theorem test_head_status_long_body_refused :
    (Instr.headStatus { kind := 0x90#8, hdr := 0#8, body := List.replicate 2049 0#8 }).wf = false := by decide +kernel

theorem test_answer_long_payload_refused :
    (Instr.answerFrame 0 { echo := 0, status := 0, payload := List.replicate 256 0#8, checkOk := true }).wf = false := by
  decide +kernel

/-! ## States -/

def inMode (m : Mode) (s : State) : State := { s with mgmt := { s.mgmt with mode := m } }
def running : State := inMode .run State.reset
def asleep : State := inMode .standby State.reset

def swathOf (id elapsed limit : Nat) : OpenSwath :=
  { id, openTime := 0, elapsed, limit, volumes := fill 0, unchanged := 0, blanked := 0, discarded := 0 }

def inSwath (w : OpenSwath) (s : State) : State := { s with tracker := { s.tracker with current := some w } }

/-- One request waits, of a kind and with arguments. -/
def asked (k : BitVec 16) (args : List Byte) (s : State) : State :=
  { s with mgmt := { s.mgmt with queue := [{ tag := 7, kind := k, args }] } }

/-- The request that `asked` puts there. -/
def req (k : BitVec 16) (args : List Byte) : Request := { tag := 7, kind := k, args }

def idOf (serial : Nat) : Identity := { serial, ink := 1, capacity := 20000, keyId := 7, fillDate := 0, writeCounter := 0 }

/-- A cartridge with 100 nL consumed and committed. -/
def cartridge (serial : Nat) (st : SlotState) : Slot :=
  { state := st, identity := some (idOf serial), consumed := 100, committed := 100, sequence := 3, lastAuth := some 0 }

def withSlot (i : SlotNo) (st : SlotState) (s : State) : State := s.setSlot i (cartridge 5 st)

def entryOf (serial : Nat) (st : HistoryState) : HistoryEntry :=
  { serial, ink := 1, capacity := 20000, committed := 100, sequence := 3, known := 400, state := st, evidence := {}, lastSeen := 0 }

def withEntry (n : HistNo) (e : HistoryEntry) (s : State) : State :=
  { s with history := { s.history with image := upd s.history.image n (some e), scanning := false } }

def contact (i : SlotNo) (p : Presence) (s : State) : State := s.setPresence i p

def txOf (i : SlotNo) (k : TxKind) : TxEntry := { slot := i, kind := k, requester := k.requester, origin := .other, record := none }

def flightOf (i : SlotNo) (k : TxKind) (p : Payload) : Flight :=
  { entry := txOf i k, payload := p, tryNo := 1, withdrawn := false, phase := .awaiting 20 }

def onLine (l : LineNo) (fl : Flight) (s : State) : State := s.setLine l { condition := .running, flight := some fl }

def answerTo (fl : Flight) (st : Byte) (p : List Byte) : AnswerFrame := { echo := fl.entry.byte0, status := st, payload := p, checkOk := true }

def withKey (k : KeyNo) (e : KeyEntry) (s : State) : State := { s with keys := { s.keys with image := upd s.keys.image k e } }

/-- Every head on one channel or none, and every volume at its greatest. -/
def mapped (c : Option ChannelNo) (s : State) : State :=
  { s with meter := { s.meter with
      headMap := fill { channel := c, set := 7 }, active := fill (fill { small := 4095, medium := 4095, large := 4095 }) } }

def withChannel (c : ChannelNo) (ch : Channel) (s : State) : State := s.setChan c ch
def metered (c : ChannelNo) (n : Nat) (s : State) : State := s.setCounters c { s.counter c with metered := n }

/-- A frame for head 31 whose 64 codes are all large: 262,080 vu at 4,095 vu a drop. -/
def fire : FiringFrame := { hdr := 31#8, waveform := 3, nozzles := 0, line := 9, codes := List.replicate 16 0xFF#8 }

def headFrame : LinkFrame := { kind := 0x90#8, hdr := 31#8, body := [] }

/-- Every condition value reported, and every latch at its live value. -/
def reported (s : State) : State :=
  let slots : Tbl 16 SlotConds := tab fun i => (s.slot i).conds
  let channels : Tbl 8 ChannelConds := tab fun c => channelConds (s.chan c) (s.counter c)
  { s with events := { s.events with slotLive := slots, slotLatch := slots, channelLive := channels, channelLatch := channels } }

theorem reported_lawful (s : State) : LiveAgree (reported s) ∧ LatchesLawful (reported s) :=
  ⟨liveAgree_iff.mpr ⟨fun _ => nth_tab _ _, fun _ => nth_tab _ _⟩, ⟨fun _ => by simp [reported], fun _ => by simp [reported]⟩⟩

/-- Slot 15 holds the entry `e`, which stands in place 63 (R129). -/
abbrev Holds (s : State) (e : HistoryEntry) : Prop :=
  (s.slot 15).serial? = some 5 ∧ e.serial = 5 ∧ (s.slot 15).lastAuth ≠ none ∧ s.history.find 5 = some 63 ∧ s.history.entry 63 = some e

/-- The state after a command, if it goes on. -/
def after (c : Instr) (s : State) : State :=
  match exec c s with
  | .next t => t
  | .fault _ | .refused _ => s

/-! ## Worked examples of the manual, one step each -/

/-- Chapter 02, frame A: 40 small, 25 medium and 10 large codes of 1,024 nozzles. -/
def frameA : FiringFrame :=
  { hdr := 5#8, waveform := 0, nozzles := 15, line := 0,
    codes := List.replicate 10 0x55#8 ++ List.replicate 6 0xAA#8 ++ [0xBF#8, 0xFF#8, 0xFC#8] ++ List.replicate 237 0#8 }

theorem test_frame_a_volume : frameVolume { small := 42, medium := 78, large := 120 } frameA.codes = 4830 := by decide +kernel

/-- Channel 2 as frame A finds it. -/
def beforeFrameA : State :=
  let s := withChannel 2 { ink := 1, feed := [4], active := some 4, state := .feeding, gate := .opened } running
  let sl : Slot := { cartridge 5 .genuine with identity := some { idOf 5 with capacity := 500000000 } }
  let t := (s.setSlot 4 sl).setCounters 2 { metered := 183527500, debited := 18350, unattributed := 2, remainder := 7500 }
  inSwath { swathOf 118 0 0 with volumes := upd (fill 0) 2 9000000 }
    { t with meter := { t.meter with
        headMap := upd t.meter.headMap 5 { channel := some 2, set := 1 }
        active := upd t.meter.active 1 (upd (fill {}) 0 { small := 42, medium := 78, large := 120 }) } }

set_option maxRecDepth 20000 in
theorem test_frame_a_counters :
    (after (.firing frameA) beforeFrameA).counter 2 =
      { metered := 183532330, debited := 18351, overdraw := 0, unattributed := 2, remainder := 2330 } ∧
    ((after (.firing frameA) beforeFrameA).slot 4).consumed = 101 := by decide +kernel

/-- Chapter 04, arrival 6: the third failed frame in a row. -/
theorem test_third_failure_loses_the_link :
    let s := inSwath (swathOf 310 0 0) { running with link := { running.link with failures := 2 } }
    let t := after (.checkFailure 0x10#8) s
    t.link.state = .lost ∧ t.tracker.current = none ∧ t.tracker.ring.map (·.outcome) = [.aborted] ∧
      t.events.queue.map (·.kind) = [.linkCheckError, .linkState, .swathIrregular] ∧
      t.events.queue.map (·.detail) = [3 * 256 + 16, 1, 4 * 65536 + 310] := by decide +kernel

/-- Chapter 04, arrival 9: the close that regains the link is a stray one. -/
theorem test_close_regains_the_link :
    let s := { running with link := { running.link with state := .lost, failures := 3 } }
    let t := after (.swathClose 0#8 310) s
    t.link.state = .up ∧ t.link.failures = 0 ∧ t.events.queue.map (·.kind) = [.linkState, .swathIrregular] ∧
      t.link.headOut = [swathFrame 0x12#8 0#8 310] := by decide +kernel

def statusFrame (h : Nat) : LinkFrame := { kind := 0x90#8, hdr := BitVec.ofNat 8 h, body := [] }
def responseT1 : OutFrame := .response { tag := 1, kind := 42#16, status := .done, results := [] }
def noticeOf (n : Nat) : OutFrame := .notice { count := n, overrun := false, cause := .levelLow, subject := .none }

/-- Chapter 04, "sharing the return lane": the starting point. -/
def laneExample : State :=
  { running with link := { running.link with
      headBuf := [statusFrame 7, statusFrame 8, statusFrame 9, statusFrame 10], outgoing := [responseT1, noticeOf 3]
      lane := some (.head (statusFrame 3)), lastServed := .headStatus } }

theorem test_lane_takes_the_other_source :
    let t := after (.transmissionEnd { straps := 0, contacts := 0 }) laneExample
    t.link.lane = some (.own responseT1) ∧ t.link.outgoing = [noticeOf 3] ∧ t.link.headBuf.length = 4 ∧
      t.link.lastServed = .outgoing ∧ t.link.laneOut = [statusFrame 3] := by decide +kernel

theorem test_full_buffer_discards_and_updates_the_notice :
    let s := { laneExample with
      link := { laneExample.link with lane := some (.own responseT1), outgoing := [noticeOf 3], lastServed := .outgoing }
      events := { laneExample.events with
        queue := List.replicate 3 { time := 0, kind := .levelLow, subject := .none, detail := 0 }
        routes := fill { queue := true, notify := true } } }
    let t := after (.headStatus (statusFrame 12)) s
    t.link.headBuf = s.link.headBuf ∧
      t.link.outgoing = [.notice { count := 4, overrun := false, cause := .returnDiscard, subject := .head 12 }] := by
  decide +kernel

/-! ## One step of each shape -/

theorem test_contact_starts_settling :
    ((after (.contactClose 3) running).slot 3).state = .settling ∧
      nth (after (.contactClose 3) running).presence 3 = { closed := true, timer := some 200, wakeMark := false } := by
  decide +kernel

theorem test_settled_slot_identifies :
    let s := contact 15 { closed := true, timer := some 0 } (withSlot 15 .settling running)
    ((after (.settlingEnd 15) s).slot 15).state = .identifying ∧
      ((after (.settlingEnd 15) s).line 3).queue = [txOf 15 .identify] := by decide +kernel

theorem test_identify_request_frame :
    let s := running.setLine 3 { condition := .running, queue := [txOf 15 .identify] }
    (after (.transactionStart 3) s).busOut.map (·.bytes.take 2) = [[0xC1#8, 0#8]] := by decide +kernel

theorem test_line_hold_is_lifted :
    ((after .scanEnd State.reset).line 2).condition = .running ∧ ((after .scanEnd asleep).line 2).condition = .draining := by
  decide +kernel

theorem test_mode_set_without_key_is_not_ready :
    (after .modeSet (asked 41 [1#8, 0#8] State.reset)).link.lane =
      some (.own (.response { tag := 7, kind := 41#16, status := .notReady, results := [] })) := by decide +kernel

theorem test_time_set_returns_the_old_time :
    let t := after .timeSet (asked 43 [0#8, 0#8, 0#8, 0#8, 1#8, 2#8] State.reset)
    t.mgmt.partTime = 258 ∧
      t.link.lane = some (.own (.response { tag := 7, kind := 43#16, status := .done, results := List.replicate 6 0#8 })) := by
  decide +kernel

theorem test_fifth_request_is_busy :
    let s := { running with mgmt := { running.mgmt with queue := List.replicate 4 (req 42 []) } }
    (after (.management 9 42 []) s).link.lane =
      some (.own (.response { tag := 9, kind := 42#16, status := .busy, results := [] })) := by decide +kernel

theorem test_third_timeout_faults_the_slot :
    let fl := { flightOf 0 .identify .plain with tryNo := 3, phase := .awaiting 0 }
    let t := after (.answerTimeout 0) (onLine 0 fl (withSlot 0 .identifying running))
    (t.slot 0).state = .faulted .noResponse ∧ (t.line 0).counters.failed = 1 ∧ (t.line 0).counters.timeouts = 1 ∧
      t.events.queue.map (·.detail) = [1] := by decide +kernel

/-- R149: the lifting of a hold leaves the flag to the ending of a withdrawn write that is in flight (log 23). -/
theorem test_lifted_hold_leaves_the_flag_to_the_write :
    let fl := { flightOf 15 .usageWrite (.usage 100 1 2) with phase := .awaiting 20 }
    let s := (State.reset.setSlot 15 { cartridge 5 .genuine with consumed := 101, owedCommit := true }).setAudit
      { slot := some 15, state := .running }
    let t := after .denyAdd (asked 16 (be 6 5 ++ be 6 5) (onLine 3 fl s))
    (t.slot 15).state = .rejected .denied ∧ (t.slot 15).owedCommit = true ∧ heldSlot t = none ∧
      ((after (.answerFrame 3 (answerTo fl 2 [])) t).slot 15).owedCommit = false := by decide +kernel

/-- Chapter 10: the lamp lights with the first LOW slot. -/
theorem test_lamp_follows_its_condition :
    let f : IndFields :=
      { enabled := true, operand1 := { scope := .slot, condition := .low, mask := 0xFFFF, reduce := .any, source := .live } }
    (({ fields := f } : Indicator).evaluate { State.reset.events with slotLive := upd (fill {}) 9 { low := true } }).active = true := by
  decide +kernel

theorem test_check_value_of_the_frame_check : crc32 [0x31#8, 0x32#8, 0x33#8, 0x34#8, 0x35#8, 0x36#8, 0x37#8, 0x38#8, 0x39#8] = 0x0376E6E7#32 := by
  decide +kernel

theorem test_check_value_of_the_bus_check : crc16 [0x31#8, 0x32#8, 0x33#8, 0x34#8, 0x35#8, 0x36#8, 0x37#8, 0x38#8, 0x39#8] = 0x29B1#16 := by
  decide +kernel

/-! ## Witnesses: the hypotheses of each statement, clause by clause, hold together somewhere -/

set_option maxRecDepth 20000

theorem test_witness_StepTakesTheFrontCommand : ∃ s : State, s.pending = [] := ⟨State.reset, rfl⟩

theorem test_witness_EveryCommandAnswersANextState :
    ∃ (c : Instr) (s : State), s.powered = false ∧ ∀ pins, c ≠ .powerOn pins :=
  ⟨.scanEnd, { State.reset with powered := false }, rfl, fun _ h => nomatch h⟩

theorem test_witness_PowerAndResetLine : ∃ (s : State) (pins : Pins) (c : Instr), c = .resetLine pins ∧ s.powered = true :=
  ⟨running, ⟨7, 0xFFFF⟩, _, rfl, rfl⟩

def sending (f : LaneFrame) (s : State) : State := { s with link := { s.link with lane := some f } }
def buffered (n : Nat) (s : State) : State := { s with link := { s.link with headBuf := List.replicate n headFrame } }

theorem test_witness_TransmissionEndFreesTheLane :
    (∃ (s : State) (f : LaneFrame), s.powered = true ∧ s.link.lane = some f ∧ s.mgmt.resetPending = false) ∧
    (∃ (s : State) (f : LaneFrame), s.powered = true ∧ s.link.lane = some f ∧ s.mgmt.resetPending = true ∧ f.isReset = false) ∧
    ∃ s : State, s.powered = true ∧ s.mgmt.resetPending = true ∧
      s.link.lane = some (.own (.response { tag := 255, kind := 44#16, status := .done, results := [] })) :=
  let resets : State := { running with mgmt := { running.mgmt with resetPending := true } }
  ⟨⟨sending (.head headFrame) running, .head headFrame, by decide +kernel⟩,
    ⟨sending (.head headFrame) resets, .head headFrame, by decide +kernel⟩,
    ⟨sending (.own (.response { tag := 255, kind := 44#16, status := .done, results := [] })) resets, by decide +kernel⟩⟩

theorem test_witness_ReturnPortFrames :
    (∃ s : State, s.powered = true ∧ s.link.headBuf.length = 3 ∧ s.link.lane = none) ∧
    (∃ s : State, s.powered = true ∧ s.link.headBuf.length = 3 ∧ s.link.lane ≠ none) ∧
    (∃ (s : State) (f : LinkFrame), s.powered = true ∧ s.link.headBuf.length = 4 ∧ s.link.lane ≠ none ∧
      addressOf f.hdr = (31 : HeadNo).val) ∧
    ∃ (s : State) (f : LinkFrame), s.powered = true ∧ s.link.headBuf.length = 4 ∧ addressOf f.hdr = 32 :=
  ⟨⟨buffered 3 running, by decide +kernel⟩, ⟨sending (.head headFrame) (buffered 3 running), by decide +kernel⟩,
    ⟨sending (.head headFrame) (buffered 4 running), headFrame, by decide +kernel⟩,
    ⟨buffered 4 running, { headFrame with hdr := 32#8 }, by decide +kernel⟩⟩

def feeding : Channel := { ink := 1, feed := [15], active := some 15, state := .feeding, gate := .opened }

/-- Head 31 on channel 7, which feeds from slot 15. -/
def supplied (n : Nat) : State := metered 7 n (withChannel 7 feeding (mapped (some 7) (withSlot 15 .genuine running)))

theorem test_witness_FiringTreatment :
    (∃ s : State, s.powered = true ∧ addressOf fire.hdr = (31 : HeadNo).val ∧ s.mgmt.mode ≠ .standby ∧
      (nth s.meter.headMap 31).channel = none) ∧
    (∃ s : State, s.powered = true ∧ s.mgmt.mode ≠ .standby ∧ (nth s.meter.headMap 31).channel = some 7 ∧
      (s.chan 7).gate = .closed) ∧
    (∃ s : State, s.powered = true ∧ s.mgmt.mode ≠ .standby ∧ (nth s.meter.headMap 31).channel = some 7 ∧
      (s.chan 7).gate = .opened ∧
      (s.counter 7).metered + frameVolume (nth (nth s.meter.active (nth s.meter.headMap 31).set) fire.waveform.toFin) fire.codes = 2 ^ 64) ∧
    ∃ s : State, s.powered = true ∧ s.mgmt.mode ≠ .standby ∧ (nth s.meter.headMap 31).channel = some 7 ∧
      (s.chan 7).gate = .opened ∧
      (s.counter 7).metered + frameVolume (nth (nth s.meter.active (nth s.meter.headMap 31).set) fire.waveform.toFin) fire.codes =
        2 ^ 64 - 1 :=
  ⟨⟨running, by decide +kernel⟩, ⟨mapped (some 7) State.reset, by decide +kernel⟩,
    ⟨supplied (2 ^ 64 - 262080), by decide +kernel⟩, ⟨supplied (2 ^ 64 - 262081), by decide +kernel⟩⟩

theorem test_witness_UncountedFiringFrames :
    (∃ s : State, s.powered = true ∧ addressOf fire.hdr = (31 : HeadNo).val ∧ s.mgmt.mode ≠ .standby ∧
      (nth s.meter.headMap 31).channel = none ∧ nth s.meter.unmappedReported 31 = false) ∧
    (∃ s : State, s.powered = true ∧ s.mgmt.mode ≠ .standby ∧ (nth s.meter.headMap 31).channel = none ∧
      nth s.meter.unmappedReported 31 = true) ∧
    (∃ s : State, s.powered = true ∧ s.mgmt.mode ≠ .standby ∧ (nth s.meter.headMap 31).channel = some 7 ∧
      (s.chan 7).gate = .closed) ∧
    (∃ s : State, s.powered = true ∧ s.mgmt.mode ≠ .standby ∧ (nth s.meter.headMap 31).channel = some 7 ∧
      (s.counter 7).metered + frameVolume (nth (nth s.meter.active (nth s.meter.headMap 31).set) fire.waveform.toFin) fire.codes = 2 ^ 64 ∧
      s.tracker.current ≠ none) ∧
    ∃ s : State, s.powered = true ∧ addressOf fire.hdr = 31 ∧ s.mgmt.mode = .standby :=
  ⟨⟨running, by decide +kernel⟩,
    ⟨{ running with meter := { running.meter with unmappedReported := fill true } }, by decide +kernel⟩,
    ⟨mapped (some 7) State.reset, by decide +kernel⟩,
    ⟨inSwath (swathOf 1 0 0) (supplied (2 ^ 64 - 262080)), by decide +kernel⟩, ⟨asleep, by decide +kernel⟩⟩

theorem test_witness_CountedFiringFrames :
    (∃ s : State, s.powered = true ∧ addressOf fire.hdr = (31 : HeadNo).val ∧ s.mgmt.mode ≠ .standby ∧
      (nth s.meter.headMap 31).channel = some 7 ∧ (s.chan 7).gate = .opened ∧ (s.counter 7).metered + 262080 = 2 ^ 64 - 1 ∧
      s.tracker.current = none) ∧
    (∃ (w : OpenSwath) (s : State), s.powered = true ∧ s.mgmt.mode ≠ .standby ∧ (nth s.meter.headMap 31).channel = some 7 ∧
      (s.chan 7).gate = .opened ∧ (s.counter 7).metered + 262080 < 2 ^ 64 ∧ s.tracker.current = some w ∧
      nth w.volumes 7 + 262080 = 2 ^ 64 - 1) ∧
    (∃ s : State, (s.chan 7).active = none) ∧
    (∃ s : State, (s.chan 7).active = some 15 ∧ (s.slot 15).state ∈ [SlotState.empty, .settling, .identifying, .challenging .first]) ∧
    (∃ s : State, (s.chan 7).active = some 15 ∧ (s.slot 15).state = .rejected .denied ∧ (s.slot 15).lastAuth = none) ∧
    (∃ s : State, (s.chan 7).active = some 15 ∧ (s.slot 15).state ∈ [SlotState.genuine, .suspect, .depleted]) ∧
    (∃ s : State, (s.chan 7).active = some 15 ∧ (s.slot 15).state = .challenging (.rechallenge .depleted)) ∧
    (∃ s : State, (s.chan 7).active = some 15 ∧ (s.slot 15).state = .challenging (.wake .genuine)) ∧
    ∃ s : State, (s.chan 7).active = some 15 ∧ (s.slot 15).state = .faulted .noResponse ∧ (s.slot 15).lastAuth ≠ none :=
  let fed (st : SlotState) : State := withChannel 7 feeding (withSlot 15 st running)
  ⟨⟨supplied (2 ^ 64 - 262081), by decide +kernel⟩,
    ⟨{ swathOf 1 0 0 with volumes := fill (2 ^ 64 - 262081) },
      inSwath { swathOf 1 0 0 with volumes := fill (2 ^ 64 - 262081) } (supplied 0), by decide +kernel⟩,
    ⟨running, by decide +kernel⟩, ⟨fed (.challenging .first), by decide +kernel⟩,
    ⟨withChannel 7 feeding (running.setSlot 15 { state := .rejected .denied }), by decide +kernel⟩,
    ⟨fed .depleted, by decide +kernel⟩, ⟨fed (.challenging (.rechallenge .depleted)), by decide +kernel⟩,
    ⟨fed (.challenging (.wake .genuine)), by decide +kernel⟩, ⟨fed (.faulted .noResponse), by decide +kernel⟩⟩

/-- Head 31 on channel 7 with these limits, which feeds from slot 15 in a given state: a cartridge of 20,000 nL, 100 of them consumed and
committed. `fire` debits 26 nL to it. -/
def drains (st : SlotState) (lim : Limits) : State := withChannel 7 { feeding with limits := lim } ((supplied 0).setSlotState 15 st)

/-- An audit holds slot 15. -/
def heldBy (s : State) : State := s.setAudit { slot := some 15, state := .paused }

/-- What `Debits` asks of a FIRING frame, for `fire`. -/
abbrev Fires (s : State) : Prop :=
  s.powered = true ∧ s.mgmt.mode ≠ .standby ∧ (s.counter 7).remainder ≤ 9999 ∧ addressOf fire.hdr = (31 : HeadNo).val ∧
    (nth s.meter.headMap 31).channel = some 7 ∧ (s.chan 7).gate = .opened ∧
    (s.counter 7).metered + frameVolume (nth (nth s.meter.active (nth s.meter.headMap 31).set) fire.waveform.toFin) fire.codes < 2 ^ 64 ∧
    26 = ((s.counter 7).remainder +
      frameVolume (nth (nth s.meter.active (nth s.meter.headMap 31).set) fire.waveform.toFin) fire.codes) / 10000

theorem fires_debits {s : State} (h : Fires s) : Debits (.firing fire) s 7 26 :=
  ⟨h.1, h.2.1, h.2.2.1, .inl ⟨fire, 31, rfl, h.2.2.2⟩⟩

/-- What every clause about a debit that the slot takes asks of the state. -/
abbrev Takes (s : State) : Prop :=
  Fires s ∧ (s.chan 7).active = some 15 ∧ (s.slot 15).identity = some (idOf 5) ∧ 0 < (placing s 7 26).taken

theorem test_witness_DebitChecks :
    (∃ s, Fires s ∧ (placing s 7 26).taken = 0 ∧ 0 < (placing s 7 26).unattributed ∧ nth s.meter.unattributedReported 7 = false) ∧
    (∃ s, Takes s ∧ (limitsOf s 15).low = 20000 - 126 ∧ (s.slot 15).low = false ∧ (limitsOf s 15).reserve + 1 = 20000 - 126) ∧
    (∃ s, Takes s ∧ (limitsOf s 15).reserve = 20000 - 126 ∧ (s.slot 15).state = .suspect) ∧
    (∃ s, Takes s ∧ (limitsOf s 15).reserve = 20000 - 126 ∧ (s.slot 15).state = .challenging (.rechallenge .genuine)) ∧
    (∃ s, Takes s ∧ (limitsOf s 15).reserve = 20000 - 126 ∧ (s.slot 15).state = .challenging (.wake .suspect)) ∧
    (∃ s, Takes s ∧ (limitsOf s 15).reserve = 20000 - 126 ∧ (s.slot 15).state = .faulted .noResponse) ∧
    (∃ s, Takes s ∧ (s.slot 15).state.commitEligible = true ∧ (limitsOf s 15).step = 26 ∧ heldSlot s = none ∧
      isPending s 15 .usageWrite = true) ∧
    (∃ s, Takes s ∧ (s.slot 15).state.commitEligible = true ∧ (limitsOf s 15).step = 26 ∧ heldSlot s = none ∧
      isPending s 15 .usageWrite = false) ∧
    (∃ s, Takes s ∧ (limitsOf s 15).step = 27 ∧ heldSlot s = none) ∧
    (∃ s, Takes s ∧ (s.slot 15).state.commitEligible = true ∧ (limitsOf s 15).step = 13 ∧ heldSlot s = some 15) ∧
    (∃ s, Takes s ∧ (limitsOf s 15).step = 27 ∧ heldSlot s = some 15) ∧ (∃ s, Takes s ∧ (limitsOf s 15).step = 12 ∧ heldSlot s = some 15) ∧
    ∃ (s : State) (cmd : Instr), cmd = .channelDebit ∧ Debits cmd s 7 1000000 :=
  let pending : Line := { condition := .running, queue := [txOf 15 .usageWrite] }
  ⟨⟨withChannel 7 { feeding with active := none } (supplied 0), by decide +kernel⟩,
    ⟨drains .genuine { low := 19874, reserve := 19873 }, by decide +kernel⟩, ⟨drains .suspect { reserve := 19874 }, by decide +kernel⟩,
    ⟨drains (.challenging (.rechallenge .genuine)) { reserve := 19874 }, by decide +kernel⟩,
    ⟨drains (.challenging (.wake .suspect)) { reserve := 19874 }, by decide +kernel⟩,
    ⟨drains (.faulted .noResponse) { reserve := 19874 }, by decide +kernel⟩,
    ⟨(drains .genuine { step := 26 }).setLine 3 pending, by decide +kernel⟩, ⟨drains .genuine { step := 26 }, by decide +kernel⟩,
    ⟨drains .genuine { step := 27 }, by decide +kernel⟩, ⟨heldBy (drains .genuine { step := 13 }), by decide +kernel⟩,
    ⟨heldBy (drains .genuine { step := 27 }), by decide +kernel⟩, ⟨heldBy (drains .genuine { step := 12 }), by decide +kernel⟩,
    ⟨asked 9 (be 1 7 ++ be 4 1000000) (supplied 0), _, rfl, by decide +kernel, by decide +kernel, by decide +kernel,
      .inr ⟨7, be 1 7 ++ be 4 1000000, [], rfl, by decide +kernel⟩⟩⟩

/-- R15: a debit that leaves its slot DEPLETED hands the slot over, once the channel has left it. -/
theorem test_debit_hands_over :
    let t := after (.firing fire) (drains .suspect { reserve := 19874 })
    (t.slot 15).state = .depleted ∧ (t.chan 7).active = none ∧ nth t.handover 15 = true := by decide +kernel

/-- Only channel 7 has a feed list, and what is active stands in it. -/
abbrev OnlySevenFeeds (s : State) : Prop :=
  ∀ c, ((s.chan c).state = .feeding ↔ (s.chan c).active.isSome) ∧ (∀ a, (s.chan c).active = some a → a ∈ (s.chan c).feed) ∧
    ((s.chan c).gate = .opened → s.mgmt.mode = .run ∧ (s.chan c).state = .feeding) ∧ (s.chan c).feed.Nodup ∧
    (c ≠ 7 → (s.chan c).feed = [])

theorem channels_lawful {s : State} (h : OnlySevenFeeds s) : ChannelsLawful s :=
  have seven {c : ChannelNo} {i : SlotNo} (hi : i ∈ (s.chan c).feed) : c = 7 :=
    Classical.byContradiction fun hc => by
      rw [(h c).2.2.2.2 hc] at hi
      cases hi
  ⟨fun c => ⟨(h c).1, (h c).2.1, (h c).2.2.1⟩, fun c => (h c).2.2.2.1, fun _ _ _ hc hd => (seven hc).trans (seven hd).symm⟩

/-- A swath is open, channel 7 holds new limits, and its slot 15, which has 19,900 nL left, is in a given state. -/
def holding (lim : Limits) (st : SlotState) : State :=
  inSwath (swathOf 1 10 10) (withChannel 7 { feeding with held := some lim } (withSlot 15 st running))

/-- A close meets held limits in a state with the channel laws. -/
abbrev MeetsHeld (s : State) (lim : Limits) (w : OpenSwath) : Prop :=
  s.powered = true ∧ s.mgmt.mode ≠ .standby ∧ s.tracker.current = some w ∧ (s.chan 7).held = some lim ∧ (15 : SlotNo) ∈ (s.chan 7).feed ∧
    (s.slot 15).identity = some (idOf 5) ∧ s.link.state = .up ∧ s.mgmt.heldMode = none ∧ OnlySevenFeeds s

/-- R19: the close makes the level checks of held limits, with their events and the run that they cause. -/
theorem test_close_checks_the_held_limits :
    let t := after (.swathClose 0#8 1) (holding { low := 19900, reserve := 19900, step := 1000 } .suspect)
    (t.slot 15).state = .depleted ∧ (t.slot 15).low = true ∧ (t.chan 7).active = none ∧ nth t.handover 15 = true ∧
      t.events.queue.map (·.kind) = [.levelLow, .slotDepleted, .channelStarved] := by decide +kernel

/-- What a close does with held limits, for SwathCloses, SwathOpenOpensASwath and FailuresLoseTheLink. -/
theorem test_witness_SwathCloses_held_limits :
    (∃ s w, MeetsHeld s { low := 19900, reserve := 19900, step := 0 } w ∧ (s.slot 15).state = .suspect ∧
      (idOf 5).capacity - (s.slot 15).consumed = 19900 ∧ (s.slot 15).low = false) ∧
    (∃ s w, MeetsHeld s { low := 19899, reserve := 19899, step := 0 } w ∧ (s.slot 15).state = .genuine ∧
      (idOf 5).capacity - (s.slot 15).consumed = 19900) ∧
    ∃ s w, MeetsHeld s { low := 0, reserve := 19900, step := 0 } w ∧ (s.slot 15).state = .challenging (.wake .suspect) ∧ w.limit = w.elapsed ∧
      w.limit ≠ 0 :=
  ⟨⟨holding { low := 19900, reserve := 19900, step := 0 } .suspect, swathOf 1 10 10, by decide +kernel⟩,
    ⟨holding { low := 19899, reserve := 19899, step := 0 } .genuine, swathOf 1 10 10, by decide +kernel⟩,
    ⟨holding { low := 0, reserve := 19900, step := 0 } (.challenging (.wake .suspect)), swathOf 1 10 10, by decide +kernel⟩⟩

theorem test_witness_SwathOpenOpensASwath :
    (∃ s : State, s.powered = true ∧ s.mgmt.mode ≠ .standby ∧ s.tracker.current = none) ∧
    (∃ (w : OpenSwath) (s : State), s.powered = true ∧ s.mgmt.mode ≠ .standby ∧ s.tracker.current = some w) ∧
    ∃ s : State, s.powered = true ∧ s.mgmt.mode = .standby :=
  ⟨⟨State.reset, by decide +kernel⟩, ⟨swathOf 65535 0 0, inSwath (swathOf 65535 0 0) running, by decide +kernel⟩,
    ⟨asleep, by decide +kernel⟩⟩

theorem test_witness_SwathCloses :
    (∃ (w : OpenSwath) (s : State), s.powered = true ∧ s.mgmt.mode ≠ .standby ∧ s.tracker.current = some w ∧ w.id = (65535#16).toNat) ∧
    (∃ (w : OpenSwath) (s : State), s.powered = true ∧ s.mgmt.mode ≠ .standby ∧ s.tracker.current = some w ∧ w.id ≠ (0#16).toNat) ∧
    (∃ s : State, s.powered = true ∧ s.mgmt.mode = .standby) ∧
    (∃ (w : OpenSwath) (s : State), s.powered = true ∧ s.tracker.current = some w ∧ w.limit ≠ 0 ∧ w.limit = w.elapsed) ∧
    (∃ s : State, s.powered = true ∧ ∀ w, s.tracker.current = some w → w.limit = 0 ∨ w.elapsed < w.limit) ∧
    (∃ s : State, s.powered = true ∧ s.tracker.current.map (·.limit) = some 0) ∧
    ∃ s : State, s.powered = true ∧ s.tracker.current.map (fun w => (w.elapsed, w.limit)) = some (9, 10) :=
  let w := swathOf 65535 10 10
  ⟨⟨w, inSwath w running, by decide +kernel⟩, ⟨w, inSwath w running, by decide +kernel⟩, ⟨asleep, by decide +kernel⟩,
    ⟨w, inSwath w running, by decide +kernel⟩, ⟨running, rfl, fun _ h => nomatch h⟩,
    ⟨inSwath (swathOf 0 9 0) running, by decide +kernel⟩, ⟨inSwath (swathOf 0 9 10) running, by decide +kernel⟩⟩

theorem test_witness_StrayCloseChangesNoSwath : ∃ s : State, s.powered = true ∧ s.mgmt.mode ≠ .standby ∧ s.tracker.current = none :=
  ⟨State.reset, by decide +kernel⟩

theorem test_witness_OtherFramesAreForwarded :
    (∃ (s : State) (f : LinkFrame), s.powered = true ∧ (Instr.headControl f).wf = true ∧ addressOf f.hdr ≠ s.link.bridge ∧
      ¬(f.kind = 0x10#8 ∧ s.mgmt.mode = .standby)) ∧
    (∃ (s : State) (f : LinkFrame), s.powered = true ∧ (Instr.headControl f).wf = true ∧ addressOf f.hdr = s.link.bridge ∧
      f.kind ≠ 0x14#8 ∧ ¬(f.kind = 0x10#8 ∧ s.mgmt.mode = .standby)) ∧
    ∃ (s : State) (f : LinkFrame), s.powered = true ∧ (Instr.headControl f).wf = true ∧ f.kind = 0x10#8 ∧ s.mgmt.mode = .standby :=
  ⟨⟨running, { kind := 0x20#8, hdr := 39#8, body := List.replicate 2048 0#8 }, by decide +kernel⟩,
    ⟨running, { kind := 0x20#8, hdr := 40#8, body := [] }, by decide +kernel⟩,
    ⟨asleep, { kind := 0x10#8, hdr := 32#8, body := List.replicate 19 0#8 }, by decide +kernel⟩⟩

theorem test_witness_ManagementTakesRequests :
    (∃ s : State, s.powered = true ∧ s.mgmt.queue.length = 3) ∧
    (∃ s : State, s.powered = true ∧ s.mgmt.queue.length = 4 ∧ available s = 1) ∧
    ∃ s : State, s.powered = true ∧ s.mgmt.queue.length = 4 ∧ available s = 0 :=
  let full (n k : Nat) : State := { running with mgmt := { running.mgmt with queue := List.replicate n (req 42 []), promised := k } }
  ⟨⟨full 3 0, by decide +kernel⟩, ⟨full 4 6, by decide +kernel⟩, ⟨full 4 7, by decide +kernel⟩⟩

def failed (n : Nat) (st : LinkState) : State := { running with link := { running.link with state := st, failures := n } }

theorem test_witness_FailuresLoseTheLink :
    (∃ s : State, s.powered = true ∧ s.link.state = .up ∧ s.link.failures = 1) ∧
    (∃ (w : OpenSwath) (s : State), s.powered = true ∧ s.link.state = .up ∧ s.link.failures = 2 ∧ s.tracker.current = some w) ∧
    (∃ (s : State) (c : Instr), s.powered = true ∧ s.link.state = .up ∧ c = .lossOfFraming) ∧
    (∃ (s : State) (c : Instr), s.powered = true ∧ s.link.state = .lost ∧ c = .checkFailure 255#8) ∧
    (∃ (s : State) (c : Instr), s.powered = true ∧ s.link.state = .lost ∧ c = .lossOfFraming) ∧
    (∃ (s : State) (f : LinkFrame), s.powered = true ∧ s.link.state = .lost ∧ (Instr.headControl f).wf = true) ∧
    ∃ s : State, s.powered = true ∧ s.link.state = .up :=
  ⟨⟨failed 1 .up, by decide +kernel⟩, ⟨swathOf 1 0 0, inSwath (swathOf 1 0 0) (failed 2 .up), by decide +kernel⟩,
    ⟨running, _, rfl, rfl, rfl⟩, ⟨failed 3 .lost, _, rfl, rfl, rfl⟩, ⟨failed 3 .lost, _, rfl, rfl, rfl⟩,
    ⟨failed 3 .lost, headFrame, by decide +kernel⟩, ⟨failed 2 .up, by decide +kernel⟩⟩

def lamp (d : Indicator) (s : State) : State := s.setIndicator 7 d
def field (m : IndMode) (delay : Nat) : IndFields := { enabled := true, operand1 := { invert := true }, mode := m, delay }

theorem test_witness_IndicatorTimersAndBlink :
    (∃ s : State, s.powered = true ∧ (nth s.indicators 7).timer = some 0) ∧
    (∃ s : State, s.powered = true ∧ (nth s.indicators 7).timer = some 1) ∧
    (∃ s : State, s.powered = true ∧ (nth s.indicators 7).fields.drive = .blink 7 ∧ (nth s.indicators 7).active = true ∧
      (nth s.indicators 7).blinkOn = true ∧ (blinkPattern 7).2 = (nth s.indicators 7).blinkMs) ∧
    (∃ s : State, s.powered = true ∧ (nth s.indicators 7).fields.drive = .blink 7 ∧ (nth s.indicators 7).active = true ∧
      (nth s.indicators 7).blinkOn = false ∧ (blinkPattern 7).1 = (nth s.indicators 7).blinkMs) ∧
    (∃ s : State, s.powered = true ∧ (nth s.indicators 7).fields.drive = .blink 0 ∧ (nth s.indicators 7).active = true ∧
      (nth s.indicators 7).blinkMs + 1 =
        if (nth s.indicators 7).blinkOn then (blinkPattern 0).2 else (blinkPattern 0).1) ∧
    ∃ s : State, s.powered = true ∧ (nth s.indicators 7).fields.drive = .solid ∧ (nth s.indicators 7).active = false :=
  let f (p : Fin 8) : IndFields := { field .steady 0 with drive := .blink p }
  ⟨⟨lamp { timer := some 0 } running, by decide +kernel⟩, ⟨lamp { timer := some 1 } running, by decide +kernel⟩,
    ⟨lamp { fields := f 7, active := true, blinkMs := 1500 } running, by decide +kernel⟩,
    ⟨lamp { fields := f 7, active := true, blinkOn := false, blinkMs := 3000 } running, by decide +kernel⟩,
    ⟨lamp { fields := f 0, active := true, blinkMs := 499 } running, by decide +kernel⟩, ⟨running, by decide +kernel⟩⟩

/-- Every slot PRESENT, any, live, inverted as asked, SOLID. -/
def lampFields (m : IndMode) (delay : Nat) (invert : Bool) : IndFields :=
  { enabled := true, operand1 := { mask := 0xFFFF, invert }, mode := m, delay }

def lampArgs (n : Nat) (f : IndFields) : List Byte := be 1 n ++ f.bytes

theorem lampFields_stated (m : IndMode) {delay : Nat} (invert : Bool) (h : delay ≤ 255) : (lampFields m delay invert).Stated :=
  ⟨List.mem_cons_self .., nofun, h⟩

/-- Two operands of both scopes, combined, with a pattern and the greatest delay. -/
def mixedFields : IndFields :=
  { enabled := true, operand1 := { condition := .auditFail, mask := 0x8001, reduce := .all, source := .latched }
    second := some (.xor, { scope := .channel, condition := .switched, mask := 0x80, invert := true })
    mode := .extend, drive := .blink 7, delay := 255, polarity := .activeLow }

theorem test_indicator_bytes_are_read : indicatorArgs (lampArgs 7 mixedFields) = some (7, mixedFields) := by decide +kernel

theorem test_indicator_bytes :
    lampArgs 7 mixedFields =
      [7#8, 1#8, 0#8, 7#8, 0x80#8, 0x01#8, 255#8, 1#8, 0#8, 3#8, 1#8, 1#8, 10#8, 0x80#8, 0#8, 0#8, 1#8, 2#8, 1#8, 7#8, 255#8, 1#8] := by
  decide +kernel

/-- No fields spell an indicator number beyond 7. -/
theorem beyond_seven (f : IndFields) (n : IndNo) (g : IndFields) : lampArgs 8 f ≠ lampArgs n.val g := by
  intro h
  have h0 : be 1 8 = be 1 n.val := List.append_inj_left h rfl
  have h1 := congrArg ofBe h0
  rw [ofBe_be_of_lt (by decide), ofBe_be_of_lt (by have := n.isLt; omega)] at h1
  have := n.isLt
  omega

/-- No stated fields spell a channel condition for the slots. -/
theorem other_scope (rest : List Byte) (n : IndNo) (f : IndFields) (h : f.Stated) : be 1 0 ++ ([1#8, 0#8, 8#8] ++ rest) ≠ lampArgs n.val f := by
  intro e
  obtain ⟨h1, -, -⟩ := h
  rcases f with ⟨en, ⟨_ | _, c, mask, red, src, inv⟩, second, m, d, delay, pol⟩
  · have kind : 8#8 = BitVec.ofNat 8 (c.no / 256 ^ 0) := Option.some.inj (congrArg (·[3]?) e)
    have inScope : c ∈ [Condition.present, .authentic, .low, .depleted, .rejected, .suspect, .faulted, .auditFail] := h1
    clear h1 e
    revert inScope
    cases c <;> (revert kind; decide)
  · have scope : 0#8 = BitVec.ofNat 8 (1 / 256 ^ 0) := Option.some.inj (congrArg (·[2]?) e)
    exact absurd scope (by decide)

/-- INDICATOR WRITE is served with the bytes of these fields. -/
abbrev Lights (s : State) (f : IndFields) : Prop := Serves s (req 38 (lampArgs (7 : IndNo).val f)) []

theorem test_witness_IndicatorWriteAndRelease_write :
    (∃ (s : State) (args : List Byte), Serves s (req 38 args) [] ∧ ∀ (n : IndNo) (f : IndFields), f.Stated → args ≠ be 1 n.val ++ f.bytes) ∧
    (∃ (s : State) (rest : List Byte), Serves s (req 38 (be 1 0 ++ ([1#8, 0#8, 8#8] ++ rest))) [] ∧
      ∀ (n : IndNo) (f : IndFields), f.Stated → be 1 0 ++ ([1#8, 0#8, 8#8] ++ rest) ≠ be 1 n.val ++ f.bytes) ∧
    (∃ s f, Lights s f ∧ f.Stated ∧ f.mode = .steady ∧ f.holds s.events) ∧
    (∃ s f, Lights s f ∧ f.Stated ∧ f.mode = .pulse ∧ f.delay = 0 ∧ f.holds s.events) ∧
    (∃ s f, Lights s f ∧ f.Stated ∧ f.mode = .pulse ∧ f.delay = 5 ∧ ¬f.holds s.events) ∧
    (∃ s f, Lights s f ∧ f.Stated ∧ f.mode = .pulse ∧ f.delay = 255 ∧ f.holds s.events) ∧
    ∃ s f, Lights s f ∧ f.Stated ∧ f.mode = .pulse ∧ f.delay = 254 ∧ f.holds s.events :=
  let s (m : IndMode) (delay : Nat) (invert : Bool) : State := asked 38 (lampArgs 7 (lampFields m delay invert)) running
  ⟨⟨asked 38 (lampArgs 8 {}) running, lampArgs 8 {}, by decide +kernel, fun n f _ => beyond_seven {} n f⟩,
    ⟨asked 38 (be 1 0 ++ ([1#8, 0#8, 8#8] ++ [])) running, [], by decide +kernel, other_scope []⟩,
    ⟨s .steady 0 true, lampFields .steady 0 true, by decide +kernel, lampFields_stated _ true (by decide), rfl, (IndFields.eval_iff _ _).mp (by decide +kernel)⟩,
    ⟨s .pulse 0 true, _, by decide +kernel, lampFields_stated _ true (by decide), rfl, rfl, (IndFields.eval_iff _ _).mp (by decide +kernel)⟩,
    ⟨s .pulse 5 false, _, by decide +kernel, lampFields_stated _ false (by decide), rfl, rfl,
      (not_congr (IndFields.eval_iff _ _)).mp (by decide +kernel)⟩,
    ⟨s .pulse 255 true, _, by decide +kernel, lampFields_stated _ true (by decide), rfl, rfl, (IndFields.eval_iff _ _).mp (by decide +kernel)⟩,
    ⟨s .pulse 254 true, _, by decide +kernel, lampFields_stated _ true (by decide), rfl, rfl, (IndFields.eval_iff _ _).mp (by decide +kernel)⟩⟩

theorem test_witness_IndicatorWriteAndRelease_release :
    (∃ s : State, Serves s (req 39 [7#8]) [] ∧ (nth s.indicators 7).fields.enabled = false) ∧
    (∃ s : State, Serves s (req 39 [8#8]) []) ∧
    (∃ s : State, Serves s (req 39 [0xFF#8]) [] ∧ (nth s.indicators 7).fields.enabled = true ∧
      (nth s.indicators 7).fields.mode = .steady ∧ (nth s.indicators 0).fields.enabled = false) ∧
    (∃ s : State, Serves s (req 39 [7#8]) [] ∧ (nth s.indicators 7).fields.enabled = true ∧ (nth s.indicators 7).fields.mode = .toggle) ∧
    (∃ s : State, Serves s (req 39 [7#8]) [] ∧ (nth s.indicators 7).fields.enabled = true ∧ (nth s.indicators 7).fields.mode = .pulse) ∧
    (∃ s : State, Serves s (req 39 [7#8]) [] ∧ (nth s.indicators 7).fields.enabled = true ∧
      (nth s.indicators 7).fields.mode = .extend ∧ (nth s.indicators 7).result = false) ∧
    ∃ s : State, Serves s (req 39 [7#8]) [] ∧ (nth s.indicators 7).fields.enabled = true ∧
      (nth s.indicators 7).fields.mode = .extend ∧ (nth s.indicators 7).result = true :=
  ⟨⟨asked 39 [7#8] running, by decide +kernel⟩,
    ⟨asked 39 [8#8] running, by decide +kernel⟩,
    ⟨asked 39 [0xFF#8] (lamp { fields := field .steady 0 } running), by decide +kernel⟩,
    ⟨asked 39 [7#8] (lamp { fields := field .toggle 0 } running), by decide +kernel⟩,
    ⟨asked 39 [7#8] (lamp { fields := field .pulse 5, active := true, timer := some 250 } running), by decide +kernel⟩,
    ⟨asked 39 [7#8] (lamp { fields := field .extend 5, active := true } running), by decide +kernel⟩,
    ⟨asked 39 [7#8] (lamp { fields := field .extend 5, active := true, result := true } running), by decide +kernel⟩⟩

def shut (t : Option Nat) : Presence := { closed := true, timer := t }

theorem test_witness_ContactClosingAndSettling :
    (∃ s : State, s.powered = true ∧ (nth s.presence 15).closed = false ∧ (s.slot 15).state = .empty) ∧
    (∃ s : State, s.powered = true ∧ (nth s.presence 15).closed = true ∧ (s.slot 15).state = .empty) ∧
    (∃ s : State, s.powered = true ∧ (nth s.presence 15).closed = false ∧ (s.slot 15).state ≠ .empty) ∧
    (∃ s : State, s.powered = true ∧ (nth s.presence 15).closed = true ∧ (s.slot 15).state = .settling ∧
      (nth s.presence 15).timer = some 0 ∧ s.mgmt.mode ≠ .standby ∧ channelOf s 15 = none ∧ heldSlot s ≠ some 15) ∧
    (∃ s : State, s.powered = true ∧ (nth s.presence 15).closed = true ∧ (s.slot 15).state = .settling ∧
      (nth s.presence 15).timer = some 0 ∧ s.mgmt.mode = .standby) ∧
    (∃ s : State, s.powered = true ∧ (nth s.presence 15).closed = true ∧ (s.slot 15).state = .settling ∧
      (nth s.presence 15).timer = some 0 ∧ s.mgmt.mode ≠ .standby ∧ channelOf s 15 = some 7 ∧ heldSlot s = some 15) ∧
    ∃ s : State, s.powered = true ∧ (nth s.presence 15).timer = some 1 :=
  ⟨⟨running, by decide +kernel⟩, ⟨contact 15 (shut none) running, by decide +kernel⟩,
    ⟨withSlot 15 .genuine running, by decide +kernel⟩, ⟨contact 15 (shut (some 0)) (withSlot 15 .settling running), by decide +kernel⟩,
    ⟨contact 15 (shut (some 0)) (withSlot 15 .settling asleep), by decide +kernel⟩,
    ⟨heldBy (withChannel 7 feeding (contact 15 (shut (some 0)) (withSlot 15 .settling running))), by decide +kernel⟩,
    ⟨contact 15 (shut (some 1)) (withSlot 15 .settling running), by decide +kernel⟩⟩

/-- A report whose values, latches and indicators can be told: the slot stands in no feed list. For ContactClosingAndSettling and
ContactOpeningRemoves. -/
theorem test_witness_ContactOpeningRemoves_reports :
    (∃ s : State, (s.powered = true ∧ (nth s.presence 15).closed = true ∧ (s.slot 15).state = .settling ∧
      (nth s.presence 15).timer = some 0 ∧ s.mgmt.mode ≠ .standby ∧ channelOf s 15 = none) ∧ LiveAgree s ∧ LatchesLawful s) ∧
    ∃ s : State, (s.powered = true ∧ (nth s.presence 15).closed = true ∧ (s.slot 15).state = .suspect ∧ channelOf s 15 = none) ∧
      LiveAgree s ∧ LatchesLawful s :=
  ⟨⟨reported (contact 15 (shut (some 0)) (withSlot 15 .settling running)), by decide +kernel, reported_lawful _⟩,
    ⟨reported (contact 15 (shut none) (withSlot 15 .suspect running)), by decide +kernel, reported_lawful _⟩⟩

theorem test_witness_ContactOpeningRemoves :
    (∃ s : State, s.powered = true ∧ (nth s.presence 15).closed = true ∧ (s.slot 15).state = .settling) ∧
    (∃ s : State, s.powered = true ∧ (nth s.presence 15).closed = true ∧ (s.slot 15).state ≠ .settling ∧
      (s.slot 15).state ≠ .empty ∧ channelOf s 15 = none ∧ heldSlot s ≠ some 15 ∧ Holds s (entryOf 5 .inUse)) ∧
    (∃ s : State, s.powered = true ∧ (nth s.presence 15).closed = true ∧ (s.slot 15).state = .rejected .denied ∧
      Holds s (entryOf 5 .inUse) ∧ (s.slot 0).serial? = some 5 ∧ (s.slot 0).lastAuth ≠ none) ∧
    (∃ s : State, s.powered = true ∧ (nth s.presence 15).closed = true ∧ (s.slot 15).state = .faulted .noResponse ∧
      Holds s (entryOf 5 .exhausted)) ∧
    (∃ s : State, s.powered = true ∧ (nth s.presence 15).closed = true ∧ (s.slot 15).state = .identifying ∧ (s.slot 15).lastAuth = none) ∧
    (∃ s : State, s.powered = true ∧ (nth s.presence 15).closed = true ∧ (s.slot 15).state = .genuine ∧ channelOf s 15 = some 7 ∧
      heldSlot s = some 15) ∧
    ∃ s : State, s.powered = true ∧ (nth s.presence 15).closed = true ∧ (s.slot 15).state = .empty :=
  ⟨⟨contact 15 (shut (some 200)) (withSlot 15 .settling running), by decide +kernel⟩,
    ⟨contact 15 (shut none) (withSlot 15 .suspect (withEntry 63 (entryOf 5 .inUse) running)), by decide +kernel⟩,
    ⟨contact 15 (shut none) (withSlot 0 .genuine (withSlot 15 (.rejected .denied) (withEntry 63 (entryOf 5 .inUse) running))),
      by decide +kernel⟩,
    ⟨contact 15 (shut none) (withSlot 15 (.faulted .noResponse) (withEntry 63 (entryOf 5 .exhausted) running)), by decide +kernel⟩,
    ⟨contact 15 (shut none) (running.setSlot 15 { state := .identifying }), by decide +kernel⟩,
    ⟨heldBy (withChannel 7 feeding (contact 15 (shut none) (withSlot 15 .genuine running))), by decide +kernel⟩,
    ⟨contact 15 (shut none) running, by decide +kernel⟩⟩

/-- Slot 15 with a given consumed amount against 100 nL committed. -/
def drawn (st : SlotState) (consumed : Nat) : State :=
  (withEntry 63 (entryOf 5 .inUse) running).setSlot 15 { cartridge 5 st with consumed }

theorem test_witness_HandoverStartsRetirement :
    (∃ s : State, s.powered = true ∧ nth s.handover 15 = true ∧ (s.slot 15).state = .depleted ∧
      (∀ c, (s.chan c).active ≠ some 15) ∧ (s.slot 15).committed + 1 = (s.slot 15).consumed) ∧
    (∃ s : State, s.powered = true ∧ nth s.handover 15 = true ∧ (s.slot 15).state = .depleted ∧
      (∀ c, (s.chan c).active ≠ some 15) ∧ (s.slot 15).committed = (s.slot 15).consumed ∧ isPending s 15 .usageWrite = true) ∧
    (∃ s : State, s.powered = true ∧ nth s.handover 15 = true ∧ (s.slot 15).state = .depleted ∧
      (∀ c, (s.chan c).active ≠ some 15) ∧ (s.slot 15).committed = (s.slot 15).consumed ∧ isPending s 15 .usageWrite = false ∧
      (s.slot 15).serial? = some 5 ∧ (s.slot 15).lastAuth ≠ none ∧ s.history.find 5 = some 63 ∧
      s.history.entry 63 = some (entryOf 5 .inUse)) ∧
    (∃ s : State, s.powered = true ∧ (s.slot 15).state ≠ .depleted) ∧
    ∃ s : State, s.powered = true ∧ (s.slot 15).state = .depleted ∧ (s.chan 7).active = some 15 :=
  ⟨⟨(drawn .depleted 101).setHandover 15 true, by decide +kernel⟩,
    ⟨onLine 3 (flightOf 15 .usageWrite (.usage 100 0 0)) ((drawn .depleted 100).setHandover 15 true), by decide +kernel⟩,
    ⟨(drawn .depleted 100).setHandover 15 true, by decide +kernel⟩, ⟨(drawn .genuine 100).setHandover 15 true, by decide +kernel⟩,
    ⟨withChannel 7 feeding (drawn .depleted 100), by decide +kernel⟩⟩

theorem none_owed {ln : Line} (h : ∀ p, nth ln.owed p = {}) (p : TagPos) (k : TxKind) : (nth ln.owed p).has k = false := by
  rw [h p]
  cases k <;> rfl

/-- Line 3 with these entries queued and nothing in flight. -/
def queued (c : LineCondition) (q : List TxEntry) (s : State) : State := s.setLine 3 { condition := c, queue := q }

/-- Line 3 with a full queue, DRAINING, where a USAGE WRITE for slot 12 holds a mark. -/
def owing (q : List TxEntry) (s : State) : State :=
  s.setLine 3 { condition := .draining, queue := q, owed := upd (fill {}) 0 { usageWrite := true } }

theorem test_witness_TransactionStart :
    (∃ (s : State) (rest : List TxEntry), s.powered = true ∧ (s.line 3).condition = .running ∧ (s.line 3).flight = none ∧
      (s.line 3).queue = txOf 15 .identify :: rest ∧ ∀ p k, (nth (s.line 3).owed p).has k = false) ∧
    (∃ (s : State) (rest : List TxEntry), s.powered = true ∧ (s.line 3).condition = .draining ∧ (s.line 3).flight = none ∧
      (s.line 3).queue = txOf 15 .challenge :: rest ∧ rest.length = 7 ∧ owedEntries 3 (s.line 3) = [txOf 12 .usageWrite]) ∧
    (∃ (s : State) (rest : List TxEntry), s.powered = true ∧ (s.line 3).condition = .running ∧ (s.line 3).flight = none ∧
      (s.line 3).queue = { txOf 15 .recordRead with record := some 7 } :: rest) ∧
    (∃ s : State, s.powered = true ∧ (s.line 3).condition = .held) ∧
    (∃ s : State, s.powered = true ∧ (s.line 3).condition = .running ∧ (s.line 3).flight ≠ none) ∧
    (∃ s : State, s.powered = true ∧ (s.line 3).condition = .running ∧ (s.line 3).flight = none ∧ (s.line 3).queue = []) ∧
    (∃ (s : State) (rest : List TxEntry), s.powered = true ∧ (s.line 3).condition = .running ∧ (s.line 3).flight = none ∧
      (s.line 3).queue = txOf 15 .usageWrite :: rest ∧ (s.slot 15).identity = some (idOf 5) ∧ (idOf 5).keyId = (7 : KeyNo).val ∧
      s.testArm = some 15 ∧ (s.slot 15).sequence = 2 ^ 32 - 1) ∧
    ∃ (s : State) (rest : List TxEntry), s.powered = true ∧ (s.line 3).condition = .running ∧ (s.line 3).flight = none ∧
      (s.line 3).queue = txOf 15 .usageWrite :: rest ∧ (s.slot 15).identity = some (idOf 5) ∧ s.testArm = none :=
  ⟨⟨queued .running [txOf 15 .identify] running, [], rfl, rfl, rfl, rfl, none_owed (by decide +kernel)⟩,
    ⟨owing (List.replicate 8 (txOf 15 .challenge)) running, List.replicate 7 (txOf 15 .challenge), by decide +kernel⟩,
    ⟨queued .running [{ txOf 15 .recordRead with record := some 7 }] running, [], by decide +kernel⟩,
    ⟨queued .held [txOf 15 .identify] running, by decide +kernel⟩,
    ⟨onLine 3 (flightOf 15 .identify .plain) running, by decide +kernel⟩, ⟨queued .running [] running, by decide +kernel⟩,
    ⟨queued .running [txOf 15 .usageWrite]
        { running.setSlot 15 { cartridge 5 .genuine with sequence := 2 ^ 32 - 1 } with testArm := some 15 }, [], by decide +kernel⟩,
    ⟨queued .running [txOf 15 .usageWrite] (withSlot 15 .genuine running), [], by decide +kernel⟩⟩

theorem test_witness_OwedMarks :
    (∃ s : State, Serves s (req 21 [15#8]) [] ∧ s.mgmt.mode ≠ .standby ∧ (s.slot 15).state = ReturnState.genuine.state ∧
      (s.line 3).queue.length = 7) ∧
    (∃ s : State, Serves s (req 21 [15#8]) [] ∧ s.mgmt.mode ≠ .standby ∧ (s.slot 15).state = ReturnState.suspect.state ∧
      (s.line 3).queue.length = 8) ∧
    (∃ s : State, Serves s (req 25 [15#8, 0#8, 0#8]) [] ∧ s.mgmt.mode ≠ .standby ∧ s.audit.state.active = false ∧
      (s.slot 15).state.auditEligible = true ∧ (s.line 3).queue.length = 7) ∧
    (∃ s : State, Serves s (req 25 [15#8, 0#8, 0#8]) [] ∧ s.mgmt.mode ≠ .standby ∧ s.audit.state.active = false ∧
      (s.slot 15).state.auditEligible = true ∧ (s.line 3).queue.length = 8) ∧
    ∃ s : State, s.powered = true ∧ (nth s.presence 15).closed = true ∧ (s.slot 15).state = .genuine ∧
      (s.line 3).queue.length = 8 ∧ owedEntries 3 (s.line 3) = [txOf 12 .usageWrite] :=
  let full (n : Nat) (st : SlotState) : State := owing (List.replicate n (txOf 15 .usageWrite)) (withSlot 15 st running)
  ⟨⟨asked 21 [15#8] (full 7 .genuine), by decide +kernel⟩, ⟨asked 21 [15#8] (full 8 .suspect), by decide +kernel⟩,
    ⟨asked 25 [15#8, 0#8, 0#8] (full 7 .genuine), by decide +kernel⟩, ⟨asked 25 [15#8, 0#8, 0#8] (full 8 .genuine), by decide +kernel⟩,
    ⟨contact 15 (shut none) (full 8 .genuine), by decide +kernel⟩⟩

/-- The payload of an IDENTIFY answer (R72, R73). -/
def identifyAnswer (serial ink capacity keyId marker : Nat) : List Byte :=
  be 6 serial ++ be 1 ink ++ be 4 capacity ++ be 1 keyId ++ be 2 9 ++ be 1 marker ++ be 4 8

def identifying (s : State) : State := onLine 3 (flightOf 15 .identify .plain) (withSlot 15 .identifying s)

/-- The hypotheses of the statement on IDENTIFY answers. -/
abbrev Identifies (s : State) (p : List Byte) : Prop :=
  s.powered = true ∧ (s.line 3).flight = some (flightOf 15 .identify .plain) ∧
    AnswersOk (flightOf 15 .identify .plain) (answerTo (flightOf 15 .identify .plain) 0 p) p ∧ (s.slot 15).state = .identifying

theorem test_witness_awaiting (k : TxKind) (p : Payload) (s : State) (h : (s.line 3).flight = some (flightOf 15 k p)) :
    Awaiting s 3 (flightOf 15 k p) := ⟨h, rfl, 19, rfl⟩

def secretKey : KeyEntry := .loaded 0x0123456789ABCDEF#128

theorem test_witness_IdentifyAnswerIsChecked :
    (∃ (s : State) (p : List Byte), Identifies s p ∧ part 7 4 p = 0) ∧
    (∃ (s : State) (p : List Byte), Identifies s p ∧ part 7 4 p ≠ 0 ∧ part 14 1 p = 255) ∧
    (∃ (s : State) (p : List Byte), Identifies s p ∧ part 7 4 p ≠ 0 ∧ part 14 1 p = 0 ∧ channelOf s 15 = some 7 ∧
      (s.chan 7).ink ≠ part 6 1 p) ∧
    (∃ (s : State) (p : List Byte) (r : DenyRange), Identifies s p ∧ part 7 4 p ≠ 0 ∧ part 14 1 p = 0 ∧ channelOf s 15 = none ∧
      r ∈ s.deny ∧ r.first = part 0 6 p ∧ part 0 6 p = r.last) ∧
    (∃ (s : State) (p : List Byte), Identifies s p ∧ part 7 4 p ≠ 0 ∧ part 14 1 p = 0 ∧ channelOf s 15 = none ∧ s.deny = [] ∧
      part 11 1 p = 8) ∧
    (∃ (s : State) (p : List Byte), Identifies s p ∧ part 7 4 p ≠ 0 ∧ part 14 1 p = 0 ∧ channelOf s 15 = none ∧ s.deny = [] ∧
      part 11 1 p = (7 : KeyNo).val ∧ nth s.keys.image 7 = .empty) ∧
    (∃ (s : State) (p : List Byte), Identifies s p ∧ part 7 4 p ≠ 0 ∧ part 14 1 p = 0 ∧ channelOf s 15 = none ∧ s.deny = [] ∧
      part 11 1 p = (7 : KeyNo).val ∧ nth s.keys.image 7 = .revoked 5) ∧
    (∃ (s : State) (p : List Byte), Identifies s p ∧ part 7 4 p ≠ 0 ∧ part 14 1 p = 0 ∧ channelOf s 15 = none ∧ s.deny = [] ∧
      part 11 1 p = (7 : KeyNo).val ∧ nth s.keys.image 7 = secretKey ∧ s.history.find (part 0 6 p) = some 63 ∧
      s.history.entry 63 = some (entryOf 5 .exhausted)) ∧
    (∃ (s : State) (p : List Byte), Identifies s p ∧ part 7 4 p ≠ 0 ∧ part 14 1 p = 0 ∧ channelOf s 15 = some 7 ∧
      (s.chan 7).ink = part 6 1 p ∧ s.deny = [] ∧ part 11 1 p = (7 : KeyNo).val ∧ nth s.keys.image 7 = secretKey ∧
      s.history.find (part 0 6 p) = none) ∧
    ∃ (s : State) (p : List Byte), Identifies s p ∧ part 6 1 p = 0 ∧ part 7 4 p ≠ 0 ∧ part 14 1 p = 0 ∧ channelOf s 15 = none ∧
      s.deny = [] ∧ part 11 1 p = (7 : KeyNo).val ∧ nth s.keys.image 7 = secretKey ∧ s.history.find (part 0 6 p) = none :=
  ⟨⟨identifying running, identifyAnswer 5 1 0 7 0, by decide +kernel⟩,
    ⟨identifying running, identifyAnswer 5 1 (2 ^ 32 - 1) 7 255, by decide +kernel⟩,
    ⟨identifying (withChannel 7 { ink := 2, feed := [15] } running), identifyAnswer 5 1 1 7 0, by decide +kernel⟩,
    ⟨identifying { running with deny := [⟨2 ^ 48 - 1, 2 ^ 48 - 1⟩] }, identifyAnswer (2 ^ 48 - 1) 1 1 7 0, ⟨2 ^ 48 - 1, 2 ^ 48 - 1⟩,
      by decide +kernel⟩,
    ⟨identifying running, identifyAnswer 5 1 1 8 0, by decide +kernel⟩, ⟨identifying running, identifyAnswer 5 1 1 7 0, by decide +kernel⟩,
    ⟨identifying (withKey 7 (.revoked 5) running), identifyAnswer 5 1 1 7 0, by decide +kernel⟩,
    ⟨identifying (withKey 7 secretKey (withEntry 63 (entryOf 5 .exhausted) running)), identifyAnswer 5 1 1 7 0, by decide +kernel⟩,
    ⟨identifying (withKey 7 secretKey (withChannel 7 { ink := 1, feed := [15] } running)), identifyAnswer 5 1 1 7 0,
      by decide +kernel⟩,
    ⟨identifying (withKey 7 secretKey running), identifyAnswer 5 0 1 7 0, by decide +kernel⟩⟩

/-- The payload of a CHALLENGE answer or of a usage record: code, then sequence, consumed amount and four more bytes (R72, R73). -/
def challengePayload (code : BitVec 64) (q c : Nat) : List Byte := be 8 code.toNat ++ (be 4 q ++ (be 4 c ++ be 4 0))

theorem challengePayload_fields (code : BitVec 64) {q c : Nat} (hq : q < 2 ^ 32) (hc : c < 2 ^ 32) :
    BitVec.ofNat 64 (part 0 8 (challengePayload code q c)) = code ∧ part 8 4 (challengePayload code q c) = q ∧
      part 12 4 (challengePayload code q c) = c := by
  have h8 : part 0 8 (challengePayload code q c) = code.toNat := part_front _ (by have := code.isLt; omega)
  have h12 : challengePayload code q c = (be 8 code.toNat ++ be 4 q) ++ (be 4 c ++ be 4 0) := by simp [challengePayload]
  refine ⟨by rw [h8]; exact BitVec.ofNat_toNat 64 code |>.trans (by simp), ?_, ?_⟩
  · rw [challengePayload, part_behind _ _ (be_length _ _)]
    exact part_front _ (by omega)
  · rw [h12, part_behind _ _ (by simp)]
    exact part_front _ (by omega)

def challenging (c : Challenge) (s : State) : State :=
  onLine 3 (flightOf 15 .challenge (.nonce 9)) (withSlot 15 (.challenging c) (withKey 7 secretKey s))

/-- Slot 15 has carried or found DIVERGED before. -/
def suspected (s : State) : State := s.setSlot 15 { s.slot 15 with evidence := { diverged := true } }

/-- The code that a tag with serial 5 and the secret of key 7 answers. -/
def rightCode (q c : Nat) : BitVec 64 := Config.challengeCode 0x0123456789ABCDEF#128 5 9 q c

/-- The hypotheses of the statements on CHALLENGE answers that do not speak of the code. -/
abbrev Challenges (s : State) (c : Challenge) : Prop :=
  s.powered = true ∧ (s.line 3).flight = some (flightOf 15 .challenge (.nonce 9)) ∧ (s.slot 15).state = .challenging c ∧
    (s.slot 15).identity = some (idOf 5) ∧ (idOf 5).keyId = (7 : KeyNo).val ∧
    (nth s.keys.image 7).secret = 0x0123456789ABCDEF#128

theorem challengeAnswer_ok (code : BitVec 64) (q c : Nat) :
    AnswersOk (flightOf 15 .challenge (.nonce 9)) (answerTo (flightOf 15 .challenge (.nonce 9)) 0 (challengePayload code q c))
      (challengePayload code q c) := ⟨rfl, rfl, rfl, rfl, by simp [challengePayload, flightOf, txOf, TxKind.okLength]⟩

/-- A payload carries the right code for its own sequence and amount, or the complement of it. -/
theorem test_witness_codes {q c : Nat} (hq : q < 2 ^ 32) (hc : c < 2 ^ 32) :
    (∃ p, p = challengePayload (rightCode q c) q c ∧ part 8 4 p = q ∧ part 12 4 p = c ∧
      Config.challengeCode 0x0123456789ABCDEF#128 5 9 (part 8 4 p) (part 12 4 p) = BitVec.ofNat 64 (part 0 8 p)) ∧
    ∃ p, p = challengePayload (~~~rightCode q c) q c ∧
      Config.challengeCode 0x0123456789ABCDEF#128 5 9 (part 8 4 p) (part 12 4 p) ≠ BitVec.ofNat 64 (part 0 8 p) := by
  obtain ⟨h1, h2, h3⟩ := challengePayload_fields (rightCode q c) hq hc
  obtain ⟨g1, g2, g3⟩ := challengePayload_fields (~~~rightCode q c) hq hc
  refine ⟨⟨_, rfl, h2, h3, by rw [h1, h2, h3]; rfl⟩, ⟨_, rfl, ?_⟩⟩
  rw [g1, g2, g3]
  intro h
  have : rightCode q c = ~~~rightCode q c := h
  bv_omega

/-- Every place of the history table is taken but, perhaps, the last; the last one was seen longest ago. -/
def crowded (last : Option HistoryEntry) (s : State) : State :=
  let image : Tbl 64 (Option HistoryEntry) :=
    tab fun n => if n = 63 then last else some { entryOf (100 + n.val) .removed with lastSeen := 1 }
  { s with history := { s.history with image, scanning := false } }

theorem crowded_older (last : HistoryEntry) (s : State) (h : last.lastSeen = 0) (m : HistNo) (e : HistoryEntry) (hm : m ≠ 63)
    (he : (crowded (some last) s).history.entry m = some e) : last.lastSeen < e.lastSeen := by
  have : (crowded (some last) s).history.entry m = some { entryOf (100 + m.val) .removed with lastSeen := 1 } := by
    unfold crowded History.entry
    rw [nth_tab, if_neg hm]
  rw [this] at he
  cases he
  exact h ▸ Nat.zero_lt_one

/-- An entry with a member of its own, against which a sequence of 2 is a rollback. -/
def carried : HistoryEntry := { entryOf 5 .removed with evidence := { diverged := true } }

theorem test_witness_FirstChallengeAnswer :
    (∃ s, Challenges s .first) ∧
    (∃ s, Challenges s .first ∧ (idOf 5).capacity + 1 = 20001) ∧
    (∃ s, Challenges s .first ∧ s.history.find 5 = some 63 ∧ s.history.entry 63 = some (entryOf 5 .exhausted)) ∧
    (∃ s, Challenges s .first ∧ s.history.find 5 = none ∧ (s.slot 0).serial? = some 5 ∧ (s.slot 0).state.authenticated = true) ∧
    (∃ s, Challenges s .first ∧ s.history.find 5 = some 63 ∧ s.history.entry 63 = some (entryOf 5 .removed) ∧
      (∀ j, j ≠ 15 → (s.slot j).serial? = none) ∧ (100 : Nat) < min (max 100 (entryOf 5 .removed).known) (idOf 5).capacity) ∧
    (∃ s e, Challenges s .first ∧ s.history.find 5 = some 63 ∧ s.history.entry 63 = some e ∧ e.evidence.diverged = true ∧
      e.finding 2 100 = some .rollback ∧ (s.slot 15).evidence = {} ∧ (∀ j, j ≠ 15 → (s.slot j).serial? = none)) ∧
    (∃ s, Challenges s .first ∧ s.history.find 5 = none ∧ (∀ j, j ≠ 15 → (s.slot j).serial? = none) ∧
      (idOf 5).capacity - min (max 20000 0) (idOf 5).capacity = (limitsOf s 15).low ∧ (limitsOf s 15).reserve = 0 ∧
      (s.slot 15).low = false) ∧
    (∃ s, Challenges s .first ∧ s.history.find 5 = none ∧ (∀ j, j ≠ 15 → (s.slot j).serial? = none) ∧
      (idOf 5).capacity - min (max 100 0) (idOf 5).capacity = (limitsOf s 15).reserve ∧ s.tracker.current ≠ none ∧
      ∀ c, (s.chan c).active ≠ some 15) ∧
    (∃ s, Challenges s .first ∧ s.history.find 5 = none ∧ (∀ j, j ≠ 15 → (s.slot j).serial? = none) ∧ s.history.entry 63 = none ∧
      ∀ m, m < 63 → s.history.entry m ≠ none) ∧
    ∃ (s : State) (e : HistoryEntry), Challenges s .first ∧ s.history.find 5 = none ∧ (∀ j, j ≠ 15 → (s.slot j).serial? = none) ∧
      (∀ m, s.history.entry m ≠ none) ∧ s.history.entry 63 = some e ∧ heldBeside s e.serial none = false ∧
      ∀ m e', m ≠ 63 → s.history.entry m = some e' → heldBeside s e'.serial none = false → e.lastSeen < e'.lastSeen :=
  ⟨⟨challenging .first running, by decide +kernel⟩, ⟨challenging .first running, by decide +kernel⟩,
    ⟨challenging .first (withEntry 63 (entryOf 5 .exhausted) running), by decide +kernel⟩,
    ⟨challenging .first (withSlot 0 .genuine running), by decide +kernel⟩,
    ⟨challenging .first (withEntry 63 (entryOf 5 .removed) running), by decide +kernel⟩,
    ⟨challenging .first (withEntry 63 carried running), carried, by decide +kernel⟩,
    ⟨challenging .first running, by decide +kernel⟩,
    ⟨challenging .first (inSwath (swathOf 1 0 0) (withChannel 7 { ink := 1, feed := [15], limits := { reserve := 19900 } } running)),
      by decide +kernel⟩,
    ⟨crowded none (challenging .first running), by decide +kernel⟩,
    ⟨crowded (some (entryOf 99 .removed)) (challenging .first running), entryOf 99 .removed, by decide +kernel, by decide +kernel,
      by decide +kernel, by decide +kernel, by decide +kernel, by decide +kernel,
      fun m e' hm he _ => crowded_older (entryOf 99 .removed) _ rfl m e' hm he⟩⟩

theorem test_witness_LaterChallengeAnswer :
    (∃ s, Challenges s (.rechallenge .depleted) ∧ (s.slot 15).sequence = 3 ∧ (s.slot 15).committed = 100 ∧
      ∀ c, (s.chan c).active ≠ some 15) ∧
    (∃ s, Challenges s (.wake .genuine) ∧ (s.slot 15).sequence = 3 ∧ (s.slot 15).committed = 100) ∧
    (∃ s, Challenges s (.wake .genuine) ∧ (s.slot 15).committed ≠ 101 ∧ (s.slot 15).evidence.diverged = false) ∧
    ∃ s, Challenges s (.rechallenge .suspect) ∧ (s.slot 15).sequence ≠ 2 ∧ (s.slot 15).evidence.diverged = true :=
  ⟨⟨challenging (.rechallenge .depleted) running, by decide +kernel⟩, ⟨challenging (.wake .genuine) running, by decide +kernel⟩,
    ⟨challenging (.wake .genuine) running, by decide +kernel⟩,
    ⟨suspected (challenging (.rechallenge .suspect) running), by decide +kernel⟩⟩

theorem test_witness_SelectionRuns :
    (∃ s : State, s.powered = true ∧ (nth s.presence 15).closed = true ∧ (s.slot 15).state = .genuine ∧ channelOf s 15 = some 7 ∧
      s.tracker.current = none ∧ heldSlot s = some 15) ∧
    (∃ s : State, s.powered = true ∧ (nth s.presence 15).closed = true ∧ (s.slot 15).state = .depleted ∧ channelOf s 15 = some 7 ∧
      s.tracker.current ≠ none) ∧
    (∃ s, Challenges s (.rechallenge .depleted) ∧ (s.slot 15).sequence = 3 ∧ (s.slot 15).committed = 100 ∧ channelOf s 15 = some 7 ∧
      s.tracker.current = none) ∧
    (∃ s, Challenges s (.wake .genuine) ∧ (s.slot 15).sequence = 3 ∧ (s.slot 15).committed = 100 ∧ channelOf s 15 = some 7 ∧
      s.tracker.current ≠ none) ∧
    (∃ (s : State) (w : OpenSwath), MeetsHeld s { low := 19900, reserve := 19900, step := 1000 } w ∧ (s.chan 7).selectionHeld = false ∧
      (s.slot 15).state = .suspect) ∧
    (∃ (s : State) (w : OpenSwath), MeetsHeld s { low := 19899, reserve := 19899, step := 1000 } w ∧ (s.chan 7).selectionHeld = true ∧
      (s.slot 15).state = .genuine) ∧
    ∃ (s : State) (w : OpenSwath), s.powered = true ∧ s.mgmt.mode ≠ .standby ∧ s.tracker.current = some w ∧
      (∀ c, (s.chan c).held = none) ∧ s.mgmt.heldMode = none ∧ (s.chan 7).selectionHeld = true ∧ (s.chan 0).selectionHeld = false ∧
      OnlySevenFeeds s :=
  let w := swathOf 1 0 0
  let fed (st : SlotState) : State := withChannel 7 feeding (contact 15 (shut none) (withSlot 15 st running))
  ⟨⟨heldBy (fed .genuine), by decide +kernel⟩, ⟨inSwath w (fed .depleted), by decide +kernel⟩,
    ⟨challenging (.rechallenge .depleted) (withChannel 7 feeding running), by decide +kernel⟩,
    ⟨challenging (.wake .genuine) (inSwath w (withChannel 7 feeding running)), by decide +kernel⟩,
    ⟨holding { low := 19900, reserve := 19900, step := 1000 } .suspect, swathOf 1 10 10, by decide +kernel⟩,
    ⟨inSwath w (withChannel 7 { feeding with held := some { low := 19899, reserve := 19899, step := 1000 }, selectionHeld := true }
      (withSlot 15 .genuine running)), w, by decide +kernel⟩,
    ⟨inSwath w (withChannel 7 { feeding with selectionHeld := true } running), w, by decide +kernel⟩⟩

def usage (captured : Nat) : Flight := flightOf 15 .usageWrite (.usage captured 1 2)

theorem test_witness_CommitAnswers :
    (∃ s : State, s.powered = true ∧ (s.line 3).flight = some (usage 100) ∧
      AnswersOk (usage 100) (answerTo (usage 100) 0 (be 4 (2 ^ 32 - 1))) (be 4 (2 ^ 32 - 1)) ∧
      (s.slot 15).state ≠ .retiring .finalWrite ∧ (s.slot 15).serial? = some 5 ∧ (s.slot 15).lastAuth ≠ none ∧
      s.history.find 5 = some 63 ∧ s.history.entry 63 = some (entryOf 5 .inUse)) ∧
    (∃ s : State, s.powered = true ∧ (s.line 3).flight = some (usage 100) ∧ (s.slot 15).state = .retiring .finalWrite ∧
      (s.slot 15).consumed = 100 ∧ (s.slot 15).owedCommit = false ∧ lineOf 15 = 3 ∧ (s.line 3).queue = [] ∧
      (nth (s.line 3).owed (posOf 15)).usageWrite = false) ∧
    (∃ (s : State) (a : AnswerFrame), s.powered = true ∧ (s.line 3).flight = some (usage 100) ∧ a.checkOk = true ∧
      a.echo = (usage 100).entry.byte0 ∧ a.status = 2#8 ∧ a.payload = [] ∧ (s.slot 15).evidence.diverged = false ∧
      Holds s (entryOf 5 .inUse)) ∧
    (∃ s : State, s.powered = true ∧ (s.line 3).flight = some (usage 100) ∧ (s.slot 15).evidence.diverged = true ∧
      Holds s (entryOf 5 .inUse)) ∧
    (∃ s : State, s.powered = true ∧ (s.line 3).flight = some (usage 100) ∧ s.history.find 5 = none ∧ (s.slot 15).serial? = some 5) ∧
    (∃ s : State, s.powered = true ∧ (s.line 3).flight = some (flightOf 15 .markExhausted .plain) ∧
      AnswersOk (flightOf 15 .markExhausted .plain) (answerTo (flightOf 15 .markExhausted .plain) 0 []) [] ∧
      (s.slot 15).state = .retiring .marking) ∧
    ∃ s : State, s.powered = true ∧ (s.line 3).flight = some (flightOf 15 .markExhausted .plain) ∧
      (s.slot 15).state ≠ .retiring .marking :=
  ⟨⟨onLine 3 (usage 100) (drawn .genuine 400), by decide +kernel⟩,
    ⟨onLine 3 (usage 100) (drawn (.retiring .finalWrite) 100), by decide +kernel⟩,
    ⟨onLine 3 (usage 100) (drawn .genuine 400), answerTo (usage 100) 2 [], by decide +kernel⟩,
    ⟨suspected (onLine 3 (usage 100) (drawn .genuine 400)), by decide +kernel⟩,
    ⟨onLine 3 (usage 100) (withSlot 15 .genuine running), by decide +kernel⟩,
    ⟨onLine 3 (flightOf 15 .markExhausted .plain) (drawn (.retiring .marking) 100), by decide +kernel⟩,
    ⟨onLine 3 (flightOf 15 .markExhausted .plain) (drawn .genuine 100), by decide +kernel⟩⟩

def passAt (n : RecNo) (view : List (RecNo × Nat)) (writeEnded : Bool) : AuditPass :=
  { position := .index n, awaited := some n, view, writeEnded }

/-- An audit of slot 15 that awaits the record at a place. -/
def auditing (n : RecNo) (st : AuditState) (m : AuditMode) (view : List (RecNo × Nat)) (writeEnded : Bool) (q : Nat) : State :=
  let s := onLine 3 (flightOf 15 .recordRead (.index n)) (withKey 7 secretKey running)
  (s.setSlot 15 { cartridge 5 .genuine with sequence := q }).setAudit
    { slot := some 15, mode := m, state := st, pass := some (passAt n view writeEnded) }

def reading (n : RecNo) : Flight := flightOf 15 .recordRead (.index n)

/-- What every clause of the statements on records asks of the state. -/
abbrev Reads (s : State) (n : RecNo) (st : AuditState) (m : AuditMode) (pass : AuditPass) : Prop :=
  s.powered = true ∧ (s.line 3).flight = some (reading n) ∧ s.audit.slot = some 15 ∧ s.audit.state = st ∧ s.audit.mode = m ∧
    s.audit.pass = some pass ∧ pass.position = .index n ∧ pass.awaited = some n ∧ (s.slot 15).identity = some (idOf 5) ∧
    (nth s.keys.image 7).secret = 0x0123456789ABCDEF#128

/-- The payload of a RECORD READ answer (R72, R73): sequence, consumed amount, writer, code. -/
def recordPayload (code : BitVec 64) (q c : Nat) : List Byte := be 4 q ++ (be 4 c ++ (be 4 0 ++ (be 8 code.toNat ++ [])))

def rightRecord (q c : Nat) : BitVec 64 := Config.recordCode 0x0123456789ABCDEF#128 5 q c

theorem recordAnswer_ok (n : RecNo) (code : BitVec 64) (q c : Nat) :
    AnswersOk (reading n) (answerTo (reading n) 0 (recordPayload code q c)) (recordPayload code q c) :=
  ⟨rfl, rfl, rfl, rfl, by simp [recordPayload, reading, flightOf, txOf, TxKind.okLength]⟩

/-- A record carries the right code for its own sequence and amount, or the complement of it. -/
theorem test_witness_records {q c : Nat} (hq : q < 2 ^ 32) (hc : c < 2 ^ 32) :
    (∃ p, p = recordPayload (rightRecord q c) q c ∧ part 0 4 p = q ∧
      Config.recordCode 0x0123456789ABCDEF#128 5 (part 0 4 p) (part 4 4 p) = BitVec.ofNat 64 (part 12 8 p)) ∧
    ∃ p, p = recordPayload (~~~rightRecord q c) q c ∧
      Config.recordCode 0x0123456789ABCDEF#128 5 (part 0 4 p) (part 4 4 p) ≠ BitVec.ofNat 64 (part 12 8 p) := by
  have fieldsOf (code : BitVec 64) : part 0 4 (recordPayload code q c) = q ∧ part 4 4 (recordPayload code q c) = c ∧
      BitVec.ofNat 64 (part 12 8 (recordPayload code q c)) = code := by
    have h12 : recordPayload code q c = (be 4 q ++ (be 4 c ++ be 4 0)) ++ (be 8 code.toNat ++ []) := by simp [recordPayload]
    refine ⟨part_front _ (by omega), ?_, ?_⟩
    · rw [recordPayload, part_behind _ _ (be_length _ _)]
      exact part_front _ (by omega)
    · rw [h12, part_behind _ _ (by simp), part_front _ (by have := code.isLt; omega)]
      simp
  obtain ⟨h1, h2, h3⟩ := fieldsOf (rightRecord q c)
  obtain ⟨g1, g2, g3⟩ := fieldsOf (~~~rightRecord q c)
  refine ⟨⟨_, rfl, h1, by rw [h1, h2, h3]; rfl⟩, ⟨_, rfl, ?_⟩⟩
  rw [g1, g2, g3]
  intro h
  have : rightRecord q c = ~~~rightRecord q c := h
  bv_omega

theorem test_witness_AuditTakesRecords :
    (∃ (s : State) (pass : AuditPass), Reads s 0 .running .once pass ∧ (1 : RecNo).val = (0 : RecNo).val + 1) ∧
    (∃ (s : State) (pass : AuditPass), Reads s 6 .stopping .pause pass ∧ (7 : RecNo).val = (6 : RecNo).val + 1) ∧
    (∃ (s : State) (pass : AuditPass), Reads s 6 .running .pause pass) ∧ (∃ (s : State) (pass : AuditPass), Reads s 6 .running .loop pass) ∧
    ∃ a : AnswerFrame, a.checkOk = true ∧ a.echo = (reading 6).entry.byte0 ∧ a.status = 3#8 ∧ a.payload = [] :=
  ⟨⟨auditing 0 .running .once [] false 3, passAt 0 [] false, by decide +kernel⟩, ⟨auditing 6 .stopping .pause [] false 3, passAt 6 [] false, by decide +kernel⟩,
    ⟨auditing 6 .running .pause [] false 3, passAt 6 [] false, by decide +kernel⟩, ⟨auditing 6 .running .loop [] false 3, passAt 6 [] false, by decide +kernel⟩,
    ⟨answerTo (reading 6) 3 [], by decide +kernel⟩⟩

theorem test_witness_LastRecordEndsTheAudit :
    (∃ s pass, Reads s 7 .running .once pass ∧ pass.writeEnded = true ∧ (∀ r ∈ pass.view, r.2 % 8 = r.1.val) ∧
      (3 : RecNo).val = (s.slot 15).sequence % 8) ∧
    (∃ s pass, Reads s 7 .running .once pass ∧ pass.writeEnded = false ∧ (∀ r ∈ pass.view ++ [(7, 15)], r.2 % 8 = r.1.val) ∧
      ((pass.view ++ [((7 : RecNo), 15)]).map Prod.snd).foldl max 0 = (s.slot 15).sequence ∧ (7 : RecNo).val = (s.slot 15).sequence % 8) ∧
    (∃ s pass, Reads s 7 .running .pause pass ∧ pass.writeEnded = false ∧ (∀ r ∈ pass.view ++ [(7, 15)], r.2 % 8 = r.1.val) ∧
      ((pass.view ++ [((7 : RecNo), 15)]).map Prod.snd).foldl max 0 ≠ (s.slot 15).sequence ∧ (0 : RecNo).val = (s.slot 15).sequence % 8) ∧
    (∃ s pass, Reads s 7 .running .loop pass ∧ pass.writeEnded = false ∧
      pass.view ++ [(7, 16)] = [(0, 8)] ++ ((7 : RecNo), 16) :: [] ∧ 16 % 8 ≠ (7 : RecNo).val ∧ ∀ r ∈ [((0 : RecNo), 8)], r.2 % 8 = r.1.val) ∧
    (∃ s pass, Reads s 7 .stopping .pause pass ∧ pass.writeEnded = true) ∧
    ∃ a : AnswerFrame, a.checkOk = true ∧ a.echo = (reading 7).entry.byte0 ∧ a.status = 3#8 ∧ a.payload = [] :=
  ⟨⟨auditing 7 .running .once [] true 3, passAt 7 [] true, by decide +kernel⟩,
    ⟨auditing 7 .running .once [(0, 8)] false 15, passAt 7 [(0, 8)] false, by decide +kernel⟩,
    ⟨auditing 7 .running .pause [(0, 8)] false 16, passAt 7 [(0, 8)] false, by decide +kernel⟩,
    ⟨auditing 7 .running .loop [(0, 8)] false 16, passAt 7 [(0, 8)] false, by decide +kernel⟩,
    ⟨auditing 7 .stopping .pause [] true 3, passAt 7 [] true, by decide +kernel⟩, ⟨answerTo (reading 7) 3 [], by decide +kernel⟩⟩

theorem test_witness_AuditEndings :
    (∃ s : State, s.powered = true ∧ heldSlot s = some 15 ∧ (nth s.presence 15).closed = true ∧ (s.slot 15).state = .genuine) ∧
    (∃ s : State, Serves s (req 16 (be 6 5 ++ be 6 5)) [] ∧ fields [6, 6] (be 6 5 ++ be 6 5) = some [5, 5] ∧ s.mgmt.mode = .setup ∧
      s.deny.length < 32 ∧ heldSlot s = some 15 ∧ (s.slot 15).identity = some (idOf 5) ∧ (s.slot 15).state.authenticated = true) ∧
    (∃ (s : State) (fl : Flight), s.powered = true ∧ (s.line 3).flight = some fl ∧ fl.phase = .awaiting 0 ∧ fl.withdrawn = false ∧
      fl.tryNo = 3 ∧ heldSlot s = some fl.entry.slot ∧ (s.slot fl.entry.slot).state.present = true ∧ lineOf fl.entry.slot = 3) ∧
    (∃ s : State, s.powered = true ∧ nth s.handover 15 = true ∧ (s.slot 15).state = .depleted ∧ (∀ c, (s.chan c).active ≠ some 15) ∧
      heldSlot s = some 15) ∧
    ∃ s : State, Serves s (req 41 [2#8, 1#8]) [] ∧ (2#8).toNat = Mode.standby.no ∧ s.mgmt.mode ≠ .standby ∧ s.mgmt.mode ≠ .setup ∧
      s.tracker.current = none ∧ heldSlot s = some 15 ∧ (s.slot 15).consumed - (s.slot 15).committed = pressureLimit s 15 :=
  let held : State := heldBy (contact 15 (shut none) (withSlot 15 .genuine running))
  let fl : Flight := { reading 7 with tryNo := 3, phase := .awaiting 0 }
  ⟨⟨held, by decide +kernel⟩, ⟨asked 16 (be 6 5 ++ be 6 5) (inMode .setup held), by decide +kernel⟩,
    ⟨onLine 3 fl held, fl, by decide +kernel⟩,
    ⟨heldBy ((withSlot 15 .depleted running).setHandover 15 true), by decide +kernel⟩,
    ⟨asked 41 [2#8, 1#8] (heldBy (running.setSlot 15 { cartridge 5 .genuine with consumed := 1000100 })), by decide +kernel⟩⟩

/-- A try of slot 15's IDENTIFY. -/
def tried (n : Nat) (ph : TryPhase) (w : Bool) : Flight := { flightOf 15 .identify .plain with tryNo := n, phase := ph, withdrawn := w }

theorem test_witness_FailedTries :
    (∃ (s : State) (fl : Flight) (a : AnswerFrame), s.powered = true ∧ (s.line 3).flight = some fl ∧ fl.phase = .awaiting (19 + 1) ∧
      fl.entry.judge a = .wait ∧ fl.withdrawn = true) ∧
    (∃ (s : State) (fl : Flight) (a : AnswerFrame), s.powered = true ∧ (s.line 3).flight = some fl ∧ fl.phase = .awaiting (0 + 1) ∧
      fl.entry.judge a = .check ∧ fl.withdrawn = false ∧ fl.tryNo = 2) ∧
    (∃ (s : State) (fl : Flight), s.powered = true ∧ (s.line 3).flight = some fl ∧ fl.phase = .awaiting 0 ∧ fl.withdrawn = false ∧
      fl.tryNo = 3 ∧ (s.slot fl.entry.slot).state.present = true) ∧
    (∃ (s : State) (fl : Flight), s.powered = true ∧ (s.line 3).flight = some fl ∧ fl.phase = .awaiting 0 ∧ fl.withdrawn = false ∧
      fl.tryNo = 3 ∧ fl.entry.kind = .usageWrite ∧ fl.entry.slot = 15 ∧ (s.slot fl.entry.slot).state.present = true ∧
      Holds s (entryOf 5 .inUse)) ∧
    (∃ (s : State) (fl : Flight), s.powered = true ∧ (s.line 3).flight = some fl ∧ fl.phase = .awaiting 0 ∧ fl.withdrawn = false ∧
      fl.tryNo = 3 ∧ (s.slot fl.entry.slot).state.present = false) ∧
    (∃ (s : State) (fl : Flight), s.powered = true ∧ (s.line 3).flight = some fl ∧ fl.phase = .awaiting (0 + 1)) ∧
    (∃ s : State, s.powered = true ∧ (s.line 3).flight = none) ∧
    (∃ (s : State) (fl : Flight), s.powered = true ∧ (s.line 3).flight = some fl ∧ fl.phase = .awaiting 0) ∧
    (∃ (s : State) (fl : Flight), s.powered = true ∧ (s.line 3).flight = some fl ∧ fl.phase = .pausing 10) ∧
    (∃ (s : State) (fl : Flight), s.powered = true ∧ (s.line 3).flight = some fl ∧ fl.phase = .pausing 0) ∧
    (∃ s : State, s.powered = true ∧ ∀ fl, (s.line 3).flight = some fl → fl.phase ≠ .pausing 0) ∧
    ∃ s : State, s.powered = true ∧ (s.line 3).flight.map (·.phase) = some (.pausing 1) :=
  let at3 (fl : Flight) : State := onLine 3 fl (withSlot 15 .identifying running)
  let a : AnswerFrame := answerTo (tried 1 (.awaiting 1) false) 1 []
  let late := tried 3 (.awaiting 0) false
  let lost : Flight := { usage 100 with tryNo := 3, phase := .awaiting 0 }
  ⟨⟨at3 (tried 1 (.awaiting 20) true), tried 1 (.awaiting 20) true, a, by decide +kernel⟩,
    ⟨at3 (tried 2 (.awaiting 1) false), tried 2 (.awaiting 1) false, { a with checkOk := false }, by decide +kernel⟩,
    ⟨at3 late, late, by decide +kernel⟩, ⟨onLine 3 lost (drawn .genuine 400), lost, by decide +kernel⟩,
    ⟨onLine 3 lost running, lost, by decide +kernel⟩,
    ⟨at3 (tried 1 (.awaiting 1) false), tried 1 (.awaiting 1) false, by decide +kernel⟩,
    ⟨running, by decide +kernel⟩, ⟨at3 late, late, by decide +kernel⟩,
    ⟨at3 (tried 1 (.pausing 10) false), tried 1 (.pausing 10) false, by decide +kernel⟩,
    ⟨at3 (tried 2 (.pausing 0) false), tried 2 (.pausing 0) false, by decide +kernel⟩, ⟨running, rfl, fun _ h => nomatch h⟩,
    ⟨at3 (tried 2 (.pausing 1) false), by decide +kernel⟩⟩

def history (f : History → History) (s : State) : State := { s with history := f s.history }

theorem test_witness_ScanAndCellWriteEnds :
    (∃ s : State, s.powered = true ∧ s.history.scanning = true ∧ s.history.entry 63 = some (entryOf 5 .inUse) ∧
      s.history.entry 0 = none) ∧
    (∃ s : State, s.powered = true ∧ s.history.scanning = false) ∧
    (∃ (s : State) (w : HistoryWrite), s.powered = true ∧ s.history.scanning = false ∧ s.history.writing = some w ∧
      s.history.pending = [0, 63]) ∧
    (∃ (s : State) (w : HistoryWrite), s.powered = true ∧ s.history.scanning = false ∧ s.history.writing = some w ∧
      s.history.pending = []) ∧
    ∃ (s : State) (w : KeyWrite), s.powered = true ∧ s.keys.current = some w :=
  let e := withEntry 63 (entryOf 5 .inUse) running
  let w : HistoryWrite := { index := 63, image := none }
  let k : KeyWrite := { key := 7, entry := .loaded 5, tag := 1, kind := 13 }
  ⟨⟨history (fun h => { h with scanning := true }) e, by decide +kernel⟩, ⟨e, by decide +kernel⟩,
    ⟨history (fun h => { h with writing := some w, pending := [0, 63] }) e, w, by decide +kernel⟩,
    ⟨history (fun h => { h with writing := some w }) e, w, by decide +kernel⟩,
    ⟨{ running with keys := { running.keys with current := some k } }, k, by decide +kernel⟩⟩

def scheduled (g : Schedule) : State := { running with schedule := g }
def due (en : Bool) (offset nextDue : Nat) : Tbl 64 SchedEntry :=
  upd (fill {}) 63 { enabled := en, slot := 15, kind := .audit, period := 65535, offset, nextDue, missed := 255 }

theorem test_witness_ScheduleTicks :
    (∃ s : State, s.powered = true ∧ s.schedule.sinceTick = 9) ∧
    (∃ s : State, s.powered = true ∧ s.schedule.sinceTick = 10 ∧ s.schedule.action = .halt) ∧
    (∃ s : State, s.powered = true ∧ s.schedule.sinceTick = 10 ∧ s.schedule.action = .run ∧
      (nth s.schedule.entries 63).enabled = true ∧ (nth s.schedule.entries 63).offset = 1 ∧ (nth s.schedule.entries 0).enabled = false) ∧
    (∃ s : State, s.powered = true ∧ s.schedule.sinceTick = 10 ∧ s.schedule.action = .none ∧ s.schedule.running = false) ∧
    (∃ s : State, s.powered = true ∧ s.schedule.sinceTick = 10 ∧ s.schedule.action = .run ∧
      (nth s.schedule.entries 63).enabled = true ∧ (nth s.schedule.entries 63).offset = 0 ∧
      (nth s.schedule.entries 63).period < 2 ^ 48) ∧
    (∃ s : State, s.powered = true ∧ s.schedule.sinceTick = 10 ∧ s.schedule.action = .none ∧ s.schedule.running = true ∧
      s.schedule.tick + 1 = 2 ^ 48 - 1 ∧ (nth s.schedule.entries 0).enabled = false) ∧
    (∃ s : State, s.powered = true ∧ s.schedule.sinceTick = 10 ∧ s.schedule.action = .none ∧ s.schedule.running = true ∧
      s.schedule.tick + 1 < 2 ^ 48 ∧ (nth s.schedule.entries 63).enabled = true ∧
      (nth s.schedule.entries 63).nextDue = s.schedule.tick + 2) ∧
    ∃ s : State, s.powered = true ∧ s.schedule.sinceTick = 10 ∧ s.schedule.action = .none ∧ s.schedule.running = true ∧
      s.schedule.tick + 1 < 2 ^ 48 ∧ (nth s.schedule.entries 63).enabled = true ∧
      (nth s.schedule.entries 63).nextDue = s.schedule.tick + 1 ∧
      (nth s.schedule.entries 63).nextDue + (nth s.schedule.entries 63).period = 2 ^ 48 - 1 :=
  ⟨⟨scheduled { sinceTick := 9 }, by decide +kernel⟩, ⟨scheduled { sinceTick := 10, action := .halt }, by decide +kernel⟩,
    ⟨scheduled { sinceTick := 10, action := .run, entries := due true 1 0 }, by decide +kernel⟩,
    ⟨scheduled { sinceTick := 10, tick := 5 }, by decide +kernel⟩,
    ⟨scheduled { sinceTick := 10, action := .run, entries := due true 0 0 }, by decide +kernel⟩,
    ⟨scheduled { sinceTick := 10, running := true, tick := 2 ^ 48 - 2 }, by decide +kernel⟩,
    ⟨scheduled { sinceTick := 10, running := true, tick := 5, entries := due true 1 7 }, by decide +kernel⟩,
    ⟨scheduled { sinceTick := 10, running := true, tick := 2 ^ 48 - 65537, entries := due true 1 (2 ^ 48 - 65536) }, by decide +kernel⟩⟩

/-- Entry 63 alone is enabled, for slot 15, and due at the next tick, which counts 7. -/
def dueFor (k : WorkKind) (s : State) : State :=
  { s with schedule :=
    { sinceTick := 10, running := true, tick := 6
      entries := upd (fill {}) 63 { enabled := true, slot := 15, kind := k, period := 65535, offset := 0, nextDue := 7, missed := 254 } } }

/-- What every clause about a due entry asks of the state, for an entry of a kind. -/
abbrev Works (s : State) (k : WorkKind) : Prop := OnlyDue s 63 7 7 ∧ (nth s.schedule.entries 63).kind = k ∧ (nth s.schedule.entries 63).slot = 15

theorem test_witness_DueEntries :
    (∃ s, OnlyDue s 63 0 0 ∧ (s.slot (nth s.schedule.entries 63).slot).state.inService = false) ∧
    (∃ s, Works s .rechallenge ∧ (s.slot 15).state = ReturnState.genuine.state ∧ isPending s 15 .challenge = true) ∧
    (∃ s, Works s .rechallenge ∧ (s.slot 15).state = ReturnState.suspect.state ∧ isPending s 15 .challenge = false ∧
      (s.line 3).queue.length = 4) ∧
    (∃ s, Works s .rechallenge ∧ (s.slot 15).state = ReturnState.depleted.state ∧ isPending s 15 .challenge = false ∧
      (s.line 3).queue.length = 5) ∧
    (∃ s, Works s .commit ∧ (s.slot 15).state.inService = true ∧ (s.slot 15).consumed = (s.slot 15).committed) ∧
    (∃ s, Works s .commit ∧ (s.slot 15).state.inService = true ∧ (s.slot 15).committed < (s.slot 15).consumed ∧
      isPending s 15 .usageWrite = false ∧ heldSlot s = some 15 ∧ (s.slot 15).consumed - (s.slot 15).committed = pressureLimit s 15) ∧
    (∃ s, Works s .commit ∧ (s.slot 15).state.inService = true ∧ isPending s 15 .usageWrite = false ∧ heldSlot s = some 15 ∧
      (s.slot 15).consumed - (s.slot 15).committed = pressureLimit s 15 + 1) ∧
    (∃ s, Works s .commit ∧ (s.slot 15).state.inService = true ∧ (s.slot 15).committed < (s.slot 15).consumed ∧
      isPending s 15 .usageWrite = false ∧ heldSlot s ≠ some 15 ∧ (s.line 3).queue.length = 4) ∧
    (∃ s, Works s .commit ∧ (s.slot 15).state.inService = true ∧ (s.slot 15).committed < (s.slot 15).consumed ∧
      isPending s 15 .usageWrite = false ∧ heldSlot s ≠ some 15 ∧ (s.line 3).queue.length = 5) ∧
    (∃ s, Works s .audit ∧ (s.slot 15).state.inService = true ∧ s.audit.state.active = true) ∧
    (∃ s, Works s .audit ∧ (s.slot 15).state.inService = true ∧ s.audit.state.active = false ∧ (s.line 3).queue.length = 5) ∧
    ∃ s, Works s .audit ∧ (s.slot 15).state.inService = true ∧ s.audit.state.active = false ∧ (s.line 3).queue.length = 4 :=
  let busy (n : Nat) : State → State := queued .running (List.replicate n (txOf 12 .identify))
  let behind (n : Nat) : State := running.setSlot 15 { cartridge 5 .genuine with consumed := 100 + n }
  ⟨⟨scheduled { sinceTick := 10, action := .run, entries := due true 0 0 }, by decide +kernel⟩,
    ⟨dueFor .rechallenge (queued .running [txOf 15 .challenge] (withSlot 15 .genuine running)), by decide +kernel⟩,
    ⟨dueFor .rechallenge (busy 4 (withSlot 15 .suspect running)), by decide +kernel⟩,
    ⟨dueFor .rechallenge (busy 5 (withSlot 15 .depleted running)), by decide +kernel⟩,
    ⟨dueFor .commit (behind 0), by decide +kernel⟩, ⟨dueFor .commit (heldBy (behind 1000000)), by decide +kernel⟩,
    ⟨dueFor .commit (heldBy (behind 1000001)), by decide +kernel⟩, ⟨dueFor .commit (busy 4 (behind 1)), by decide +kernel⟩,
    ⟨dueFor .commit (busy 5 (behind 1)), by decide +kernel⟩, ⟨dueFor .audit (heldBy (behind 0)), by decide +kernel⟩,
    ⟨dueFor .audit (busy 5 (behind 0)), by decide +kernel⟩, ⟨dueFor .audit (busy 4 (behind 0)), by decide +kernel⟩⟩

theorem test_witness_PartTimeRuns :
    ∃ s : State, s.powered = true ∧ s.mgmt.partTime = 2 ^ 48 - 1 ∧ (s.line 3).flight.map (·.phase) = some (.awaiting 20) ∧
      (s.line 0).flight = none :=
  ⟨onLine 3 (tried 1 (.awaiting 20) false) { running with mgmt := { running.mgmt with partTime := 2 ^ 48 - 1 } }, by decide +kernel⟩

/-! The statements by `Carries` ask for a request that can be served, and for what follows here. -/

theorem test_witness_StatusReadAnswersTheWhole : ∃ s : State, Serves s (req 42 []) [] ∧ available s = 2 :=
  let s := asked 42 [] running
  ⟨{ s with mgmt := { s.mgmt with promised := 5 } }, by decide +kernel⟩

theorem test_witness_OtherReadsChangeNothing :
    (∃ s : State, Serves s (req 5 []) []) ∧ (∃ s : State, Serves s (req 15 []) []) ∧
    (∃ s : State, Serves s (req 11 [15#8, 0#8]) []) ∧ (∃ s : State, Serves s (req 11 [15#8, 17#8]) []) ∧
    (∃ s : State, Serves s (req 23 [63#8, 0#8]) []) ∧ (∃ s : State, Serves s (req 23 [63#8, 17#8]) []) ∧
    (∃ s : State, Serves s (req 32 [63#8, 0#8]) []) ∧ (∃ s : State, Serves s (req 32 [63#8, 65#8]) []) ∧
    (∃ s : State, Serves s (req 7 [BitVec.ofNat 8 (7 : SetNo).val]) []) ∧ (∃ s : State, Serves s (req 7 [8#8]) []) ∧
    (∃ s : State, Serves s (req 3 [BitVec.ofNat 8 (7 : ChannelNo).val]) []) ∧
    (∃ s : State, Serves s (req 12 [BitVec.ofNat 8 (3 : LineNo).val]) []) ∧
    (∃ s : State, Serves s (req 19 [BitVec.ofNat 8 (15 : SlotNo).val]) []) ∧ (∃ s : State, Serves s (req 28 []) []) ∧
    (∃ s : State, Serves s (req 36 []) []) ∧ (∃ s : State, Serves s (req 40 []) []) ∧
    (∃ s : State, Serves s (req 11 [15#8, 16#8]) []) ∧ (∃ s : State, Serves s (req 23 [63#8, 1#8]) [] ∧ s.history.scanning = true) ∧
    (∃ s : State, Serves s (req 23 [0#8, 16#8]) [] ∧ s.history.scanning = false) ∧ (∃ s : State, Serves s (req 32 [63#8, 64#8]) []) ∧
    (∃ s : State, Serves s (req 3 [8#8]) []) ∧ (∃ s : State, Serves s (req 12 [4#8]) []) ∧
    (∃ s : State, Serves s (req 19 [16#8]) []) ∧ (∃ s : State, Serves s (req 11 [16#8, 1#8]) []) ∧
    (∃ s : State, Serves s (req 23 [64#8, 1#8]) []) ∧ ∃ s : State, Serves s (req 32 [64#8, 1#8]) [] :=
  ⟨⟨asked 5 [] asleep, by decide +kernel⟩, ⟨asked 15 [] asleep, by decide +kernel⟩, ⟨asked 11 [15#8, 0#8] asleep, by decide +kernel⟩,
    ⟨asked 11 [15#8, 17#8] asleep, by decide +kernel⟩, ⟨asked 23 [63#8, 0#8] asleep, by decide +kernel⟩,
    ⟨asked 23 [63#8, 17#8] asleep, by decide +kernel⟩, ⟨asked 32 [63#8, 0#8] asleep, by decide +kernel⟩,
    ⟨asked 32 [63#8, 65#8] asleep, by decide +kernel⟩,
    ⟨asked 7 [7#8] asleep, by decide +kernel⟩, ⟨asked 7 [8#8] asleep, by decide +kernel⟩, ⟨asked 3 [7#8] asleep, by decide +kernel⟩,
    ⟨asked 12 [3#8] asleep, by decide +kernel⟩, ⟨asked 19 [15#8] asleep, by decide +kernel⟩, ⟨asked 28 [] asleep, by decide +kernel⟩,
    ⟨asked 36 [] asleep, by decide +kernel⟩, ⟨asked 40 [] asleep, by decide +kernel⟩,
    ⟨asked 11 [15#8, 16#8] asleep, by decide +kernel⟩, ⟨asked 23 [63#8, 1#8] asleep, by decide +kernel⟩,
    ⟨asked 23 [0#8, 16#8] (withEntry 63 (entryOf 5 .inUse) asleep), by decide +kernel⟩,
    ⟨asked 32 [63#8, 64#8] asleep, by decide +kernel⟩, ⟨asked 3 [8#8] asleep, by decide +kernel⟩, ⟨asked 12 [4#8] asleep, by decide +kernel⟩,
    ⟨asked 19 [16#8] asleep, by decide +kernel⟩, ⟨asked 11 [16#8, 1#8] asleep, by decide +kernel⟩,
    ⟨asked 23 [64#8, 1#8] asleep, by decide +kernel⟩, ⟨asked 32 [64#8, 1#8] asleep, by decide +kernel⟩⟩

theorem test_witness_RequestsAreServedFromTheHead :
    (∃ (s : State) (c : Instr), s.powered = true ∧ requestCode c = some 44 ∧ s.mgmt.queue = []) ∧
    (∃ (s : State) (c : Instr) (r : Request), s.powered = true ∧ requestCode c = some 1 ∧ s.mgmt.queue = [r] ∧ r.kind.toNat = 2) ∧
    (∃ (s : State) (c : Instr) (r : Request), s.powered = true ∧ requestCode c = some 1 ∧ s.mgmt.queue = [r] ∧
      r.kind.toNat = 1 ∧ s.link.responses + s.mgmt.promised + 2 = 8) ∧
    (∃ (s : State) (c : Instr) (r : Request), s.powered = true ∧ requestCode c = some 1 ∧ s.mgmt.queue = [r] ∧
      r.kind.toNat = 1 ∧ s.mgmt.resetPending = true) ∧
    (∃ s : State, Serves s (req 0 []) []) ∧ (∃ s : State, Serves s (req 45 []) []) ∧
    ∃ (s : State) (r : Request), s.powered = true ∧ s.mgmt.queue = [r] ∧ r.kind.toNat = 44 :=
  let one := asked 1 [] running
  ⟨⟨running, .partReset, by decide +kernel⟩, ⟨asked 2 [] running, .channelWrite, req 2 [], by decide +kernel⟩,
    ⟨{ one with mgmt := { one.mgmt with promised := 6 } }, .channelWrite, req 1 [], by decide +kernel⟩,
    ⟨{ one with mgmt := { one.mgmt with resetPending := true } }, .channelWrite, req 1 [], by decide +kernel⟩,
    ⟨asked 0 [] running, by decide +kernel⟩, ⟨asked 45 [] running, by decide +kernel⟩, ⟨asked 44 [] running, req 44 [], by decide +kernel⟩⟩

theorem test_witness_RefusedRequestsChangeNothing :
    (∃ s : State, Serves s (req 44 [0#8]) [] ∧ [0#8].length ≠ 0) ∧ (∃ s : State, Serves s (req 2 []) [] ∧ ([] : List Byte).length ≠ 13) ∧
    (∃ s : State, Serves s (req 1 [0#8, 0#8, 1#8]) [] ∧ channelWriteArgs [0#8, 0#8, 1#8] = none) ∧
    (∃ s : State, Serves s (req 4 [0#8, 1#8, 0#8]) [] ∧ headMapArgs [0#8, 1#8, 0#8] = none) ∧
    (∃ s : State, Serves s (req 38 [8#8]) [] ∧ indicatorArgs [8#8] = none) ∧
    (∃ s : State, Serves s (req 24 []) [] ∧ ([] : List Byte).length = 0 ∧ s.mgmt.mode ≠ .setup) ∧
    (∃ s : State, Serves s (req 1 [0#8, 0#8, 0#8, 0#8]) [] ∧ s.mgmt.mode ≠ .setup ∧ channelWriteArgs [0#8, 0#8, 0#8, 0#8] ≠ none) ∧
    (∃ s : State, Serves s (req 4 [0#8, 0#8]) [] ∧ s.mgmt.mode ≠ .setup ∧ headMapArgs [0#8, 0#8] ≠ none) ∧
    ∃ s : State, Serves s (req 29 []) [] ∧ ([] : List Byte).length = 0 ∧ s.mgmt.mode = .standby :=
  ⟨⟨asked 44 [0#8] running, by decide +kernel⟩, ⟨asked 2 [] running, by decide +kernel⟩,
    ⟨asked 1 [0#8, 0#8, 1#8] running, by decide +kernel⟩, ⟨asked 4 [0#8, 1#8, 0#8] running, by decide +kernel⟩,
    ⟨asked 38 [8#8] running, by decide +kernel⟩, ⟨asked 24 [] running, by decide +kernel⟩,
    ⟨asked 1 [0#8, 0#8, 0#8, 0#8] running, by decide +kernel⟩, ⟨asked 4 [0#8, 0#8] running, by decide +kernel⟩,
    ⟨asked 29 [] asleep, by decide +kernel⟩⟩

/-- Arguments of CHANNEL WRITE for channel 7. -/
def channelArgs (ink : Byte) (feed : List SlotNo) (p : Byte) : List Byte :=
  [7#8, ink, BitVec.ofNat 8 feed.length] ++ feed.map (fun i => BitVec.ofNat 8 i.val) ++ [p]

abbrev Writes (s : State) (ink : Byte) (feed : List SlotNo) (p : Policy) : Prop :=
  Serves s (req 1 (channelArgs ink feed (BitVec.ofNat 8 p.no))) [] ∧
    channelWriteArgs (channelArgs ink feed (BitVec.ofNat 8 p.no)) = some ((7 : ChannelNo).val, ink.toNat, feed.map (·.val), p.no) ∧
    s.mgmt.mode = .setup

def limitsArgs (low reserve step : Nat) : List Byte := be 1 7 ++ be 4 low ++ be 4 reserve ++ be 4 step

/-- New limits are asked for channel 7, which feeds from slot 15 in a given state, with 19,900 nL left. -/
def limited (low reserve step : Nat) (st : SlotState) : State :=
  asked 2 (limitsArgs low reserve step) (withChannel 7 feeding (withSlot 15 st running))

abbrev Limited (s : State) (low reserve step : Nat) : Prop :=
  Serves s (req 2 (limitsArgs low reserve step)) [] ∧
    fields [1, 4, 4, 4] (limitsArgs low reserve step) = some [(7 : ChannelNo).val, low, reserve, step] ∧ s.mgmt.mode ≠ .standby

theorem test_witness_ChannelAndLimitsWrite :
    (∃ s feed, Writes s 255 feed .warn ∧ feed.length = 3 ∧ feed.Nodup ∧ (∀ d, d ≠ 7 → (s.chan d).feed = []) ∧
      s.tracker.current = none ∧ (15 : SlotNo) ∈ feed ∧ (s.slot 15).identity = some (idOf 5) ∧ (idOf 5).ink ≠ 255 ∧
      (s.slot 15).state.isChallenging = true) ∧
    (∃ s feed, Writes s 1 feed .refuse ∧ feed = [15] ∧ (∀ d, d ≠ 7 → (s.chan d).feed = []) ∧
      s.tracker.current ≠ none ∧ (s.chan 7).active = some 15) ∧
    (∃ s feed, Writes s 0 feed .refuse ∧ feed = [] ∧ s.tracker.current = none) ∧
    (∃ s feed, Writes s 0 feed .warn ∧ feed = [] ∧ s.tracker.current = none ∧ (s.chan 7).active = some 15) ∧
    (∃ s feed, Writes s 1 feed .warn ∧ feed = [0] ∧ (∀ d, d ≠ 7 → (s.chan d).feed = []) ∧ s.tracker.current = none ∧
      (s.chan 7).active = some 15 ∧ (s.slot 0).state = .genuine ∧ (s.slot 0).identity = some (idOf 5)) ∧
    (∃ s feed, Writes s 1 feed .warn ∧ feed = [0, 15] ∧ (∀ d, d ≠ 7 → (s.chan d).feed = []) ∧ s.tracker.current = none ∧
      (s.chan 7).active = some 15 ∧ (s.slot 15).state = .genuine ∧ (s.slot 15).identity = some (idOf 5)) ∧
    (∃ s feed, Writes s 2 feed .warn ∧ feed = [15] ∧ (∀ d, d ≠ 7 → (s.chan d).feed = []) ∧ heldSlot s = some 15 ∧
      (s.slot 15).state.inService = true ∧ (s.slot 15).identity = some (idOf 5) ∧ (idOf 5).ink ≠ 2) ∧
    (∃ s, Writes s 1 [0, 1, 2, 3] .warn) ∧ (∃ s, Writes s 1 [4, 4] .warn ∧ ¬[(4 : SlotNo), 4].Nodup) ∧ (∃ s, Writes s 0 [4] .warn) ∧
    (∃ s, Writes s 1 [15] .warn ∧ (15 : SlotNo) ∈ (s.chan 0).feed) ∧
    (∃ s feed, Writes s 1 feed .warn ∧ feed = [15] ∧ (∀ d, (s.chan d).feed = []) ∧ (s.slot 15).identity = some (idOf 5) ∧
      (idOf 5).ink = 1 ∧ (s.slot 15).state = .suspect ∧ (idOf 5).capacity - (s.slot 15).consumed = (s.chan 7).limits.reserve) ∧
    (∃ s : State, Serves s (req 1 [8#8, 1#8, 0#8, 0#8]) [] ∧ channelWriteArgs [8#8, 1#8, 0#8, 0#8] = some (8, 1, [], 0) ∧
      s.mgmt.mode = .setup) ∧
    (∃ s : State, Serves s (req 1 [7#8, 1#8, 1#8, 16#8, 0#8]) [] ∧ channelWriteArgs [7#8, 1#8, 1#8, 16#8, 0#8] = some (7, 1, [16], 0) ∧
      s.mgmt.mode = .setup) ∧
    (∃ s : State, Serves s (req 1 [7#8, 1#8, 0#8, 2#8]) [] ∧ channelWriteArgs [7#8, 1#8, 0#8, 2#8] = some (7, 1, [], 2) ∧
      s.mgmt.mode = .setup) ∧
    (∃ s : State, Serves s (req 2 (be 1 8 ++ be 4 0 ++ be 4 0 ++ be 4 0)) [] ∧ s.mgmt.mode ≠ .standby ∧
      fields [1, 4, 4, 4] (be 1 8 ++ be 4 0 ++ be 4 0 ++ be 4 0) = some [8, 0, 0, 0]) ∧
    (∃ s, Limited s 0 100000001 0) ∧ (∃ s, Limited s 0 0 1) ∧ (∃ s, Limited s 0 0 999) ∧ (∃ s, Limited s 0 0 100000001) ∧
    (∃ s, Limited s (2 ^ 32 - 1) 100000000 100000000 ∧ s.tracker.current ≠ none) ∧
    (∃ s, Limited s 19900 19900 1000 ∧ s.tracker.current = none ∧ channelOf s 15 = some 7 ∧ (s.slot 15).identity = some (idOf 5) ∧
      (s.slot 15).state = .suspect ∧ (idOf 5).capacity - (s.slot 15).consumed = 19900 ∧ (s.chan 7).active = some 15 ∧ OnlySevenFeeds s) ∧
    (∃ s, Limited s 19899 19899 1000 ∧ s.tracker.current = none ∧ (15 : SlotNo) ∈ (s.chan 7).feed ∧ (s.slot 15).state = .suspect ∧
      (s.slot 15).identity = some (idOf 5) ∧ (idOf 5).capacity - (s.slot 15).consumed = 19900 ∧ OnlySevenFeeds s) ∧
    (∃ s, Limited s 0 19900 0 ∧ s.tracker.current = none ∧ (15 : SlotNo) ∈ (s.chan 7).feed ∧ (s.slot 15).identity = some (idOf 5) ∧
      (s.slot 15).state = .challenging (.wake .genuine) ∧ (idOf 5).capacity - (s.slot 15).consumed = 19900 ∧ OnlySevenFeeds s) ∧
    (∃ s, Limited s 0 19900 0 ∧ s.tracker.current = none ∧ (15 : SlotNo) ∈ (s.chan 7).feed ∧ (s.slot 15).identity = some (idOf 5) ∧
      (s.slot 15).state = .challenging (.rechallenge .suspect) ∧ OnlySevenFeeds s) ∧
    ∃ s, Limited s 19900 19900 0 ∧ s.tracker.current = none ∧ (15 : SlotNo) ∈ (s.chan 7).feed ∧ (s.slot 15).state = .depleted ∧
      OnlySevenFeeds s :=
  let w (ink : Byte) (feed : List SlotNo) (p : Byte) (s : State) : State := asked 1 (channelArgs ink feed p) s
  let drawing (s : State) : State := withChannel 7 { feeding with gate := .closed } s
  let l (low reserve step : Nat) : State := asked 2 (limitsArgs low reserve step) running
  ⟨⟨w 255 [15, 0, 7] 0 (withSlot 15 (.challenging .first) State.reset), [15, 0, 7], by decide +kernel⟩,
    ⟨w 1 [15] 1 (inSwath (swathOf 1 0 0) (withChannel 7 feeding State.reset)), [15], by decide +kernel⟩,
    ⟨w 0 [] 1 State.reset, [], by decide +kernel⟩, ⟨w 0 [] 0 (drawing State.reset), [], by decide +kernel⟩,
    ⟨w 1 [0] 0 (drawing (withSlot 0 .genuine State.reset)), [0], by decide +kernel⟩,
    ⟨w 1 [0, 15] 0 (drawing (withSlot 15 .genuine State.reset)), [0, 15], by decide +kernel⟩,
    ⟨w 2 [15] 0 (heldBy (drawing (withSlot 15 .genuine State.reset))), [15], by decide +kernel⟩,
    ⟨w 1 [0, 1, 2, 3] 0 State.reset, by decide +kernel⟩,
    ⟨w 1 [4, 4] 0 State.reset, by decide +kernel⟩, ⟨w 0 [4] 0 State.reset, by decide +kernel⟩,
    ⟨w 1 [15] 0 (withChannel 0 feeding State.reset), by decide +kernel⟩,
    ⟨w 1 [15] 0 (withChannel 7 { limits := { reserve := 19900 } } (withSlot 15 .suspect State.reset)), [15], by decide +kernel⟩,
    ⟨asked 1 [8#8, 1#8, 0#8, 0#8] State.reset, by decide +kernel⟩, ⟨asked 1 [7#8, 1#8, 1#8, 16#8, 0#8] State.reset, by decide +kernel⟩,
    ⟨asked 1 [7#8, 1#8, 0#8, 2#8] State.reset, by decide +kernel⟩,
    ⟨asked 2 (be 1 8 ++ be 4 0 ++ be 4 0 ++ be 4 0) running, by decide +kernel⟩, ⟨l 0 100000001 0, by decide +kernel⟩,
    ⟨l 0 0 1, by decide +kernel⟩, ⟨l 0 0 999, by decide +kernel⟩, ⟨l 0 0 100000001, by decide +kernel⟩,
    ⟨asked 2 (limitsArgs (2 ^ 32 - 1) 100000000 100000000) (inSwath (swathOf 1 0 0) running), by decide +kernel⟩,
    ⟨limited 19900 19900 1000 .suspect, by decide +kernel⟩, ⟨limited 19899 19899 1000 .suspect, by decide +kernel⟩,
    ⟨limited 0 19900 0 (.challenging (.wake .genuine)), by decide +kernel⟩,
    ⟨limited 0 19900 0 (.challenging (.rechallenge .suspect)), by decide +kernel⟩, ⟨limited 19900 19900 0 .depleted, by decide +kernel⟩⟩

/-- R19, R15: new limits deplete a slot, with a run, its events and the hand-over. -/
theorem test_new_limits_deplete :
    let t := after .channelLimitsWrite (limited 19900 19900 1000 .suspect)
    (t.slot 15).state = .depleted ∧ nth t.handover 15 = true ∧ (t.chan 7).active = none ∧
      t.events.queue.map (·.kind) = [.levelLow, .slotDepleted, .channelStarved] := by decide +kernel

def debitArgs (c amount : Nat) : List Byte := be 1 c ++ be 4 amount

abbrev DebitAsked (s : State) (c amount : Nat) : Prop :=
  Serves s (req 9 (debitArgs c amount)) [] ∧ fields [1, 4] (debitArgs c amount) = some [c, amount] ∧ s.mgmt.mode ≠ .standby

theorem test_witness_CounterRequests :
    (∃ s : State, Serves s (req 8 [7#8]) []) ∧ (∃ s : State, Serves s (req 8 [0xFF#8]) []) ∧
    (∃ s : State, Serves s (req 8 [8#8]) []) ∧ (∃ s : State, Serves s (req 8 [254#8]) []) ∧
    (∃ s, DebitAsked s 7 1000000 ∧ (s.chan 7).state ≠ .unused ∧ (s.counter 7).metered + 1000000 * 10000 = 2 ^ 64 - 1 ∧
      (s.counter 7).remainder ≤ 9999 ∧ (s.chan 7).active = some 15) ∧
    (∃ s, DebitAsked s 7 1 ∧ (s.chan 7).state ≠ .unused ∧ (s.chan 7).active = none) ∧ (∃ s, DebitAsked s 8 1) ∧ (∃ s, DebitAsked s 7 0) ∧
    (∃ s, DebitAsked s 7 1000001) ∧ (∃ s, DebitAsked s 7 1 ∧ (s.chan 7).state = .unused) ∧
    ∃ s, DebitAsked s 7 1 ∧ (s.chan 7).state ≠ .unused ∧ (s.counter 7).metered + 1 * 10000 = 2 ^ 64 :=
  let d (c n : Nat) (s : State) : State := asked 9 (debitArgs c n) s
  ⟨⟨asked 8 [7#8] running, by decide +kernel⟩, ⟨asked 8 [0xFF#8] running, by decide +kernel⟩,
    ⟨asked 8 [8#8] running, by decide +kernel⟩, ⟨asked 8 [254#8] running, by decide +kernel⟩,
    ⟨d 7 1000000 (supplied (2 ^ 64 - 1 - 10000000000)), by decide +kernel⟩,
    ⟨d 7 1 (withChannel 7 { ink := 1, state := .starved } running), by decide +kernel⟩, ⟨d 8 1 running, by decide +kernel⟩,
    ⟨d 7 0 running, by decide +kernel⟩, ⟨d 7 1000001 running, by decide +kernel⟩, ⟨d 7 1 running, by decide +kernel⟩,
    ⟨d 7 1 (supplied (2 ^ 64 - 10000)), by decide +kernel⟩⟩

def volumeArgs (a b c : Nat) : List Byte := be 1 7 ++ be 1 3 ++ be 2 a ++ be 2 b ++ be 2 c

/-- HEAD MAP WRITE with these arguments is out of range in one of its entries or in its window. -/
abbrev Maps (s : State) (args bytes : List Byte) (first n : Nat) : Prop :=
  Serves s (req 4 args) [] ∧ headMapArgs args = some (first, n, bytes) ∧ s.mgmt.mode = .setup

/-- VOLUME WRITE with these fields. -/
abbrev Measures (s : State) (v w a b c : Nat) : Prop :=
  let args := be 1 v ++ be 1 w ++ be 2 a ++ be 2 b ++ be 2 c
  Serves s (req 6 args) [] ∧ fields [1, 1, 2, 2, 2] args = some [v, w, a, b, c] ∧ s.mgmt.mode ≠ .standby

theorem test_witness_TableWrites :
    (∃ s : State, Serves s (req 4 [30#8, 2#8, 7#8, 7#8, 0xFF#8, 0#8]) [] ∧
      headMapArgs [30#8, 2#8, 7#8, 7#8, 0xFF#8, 0#8] = some (30, 2, [7#8, 7#8, 0xFF#8, 0#8]) ∧
      asMappings [7#8, 7#8, 0xFF#8, 0#8] = some [{ channel := some 7, set := 7 }, { channel := none, set := 0 }] ∧
      s.mgmt.mode = .setup) ∧
    (∃ s : State, Serves s (req 6 (volumeArgs 4095 0 4095)) [] ∧
      fields [1, 1, 2, 2, 2] (volumeArgs 4095 0 4095) = some [(7 : SetNo).val, (3 : WaveNo).val, 4095, 0, 4095] ∧
      s.mgmt.mode ≠ .standby ∧ s.tracker.current = none) ∧
    (∃ s : State, Serves s (req 6 (volumeArgs 4095 0 4095)) [] ∧ s.mgmt.mode ≠ .standby ∧ s.tracker.current ≠ none) ∧
    (∃ s : State, Serves s (req 10 (be 2 10)) [] ∧ fields [2] (be 2 10) = some [10] ∧ s.mgmt.mode ≠ .standby ∧ s.tracker.current = none) ∧
    (∃ s : State, Serves s (req 10 (be 2 60000)) [] ∧ fields [2] (be 2 60000) = some [60000] ∧ s.mgmt.mode ≠ .standby ∧
      s.tracker.current ≠ none) ∧
    (∃ s : State, Serves s (req 10 (be 2 9)) [] ∧ fields [2] (be 2 9) = some [9] ∧ s.mgmt.mode ≠ .standby) ∧
    (∃ s : State, Serves s (req 10 (be 2 60001)) [] ∧ fields [2] (be 2 60001) = some [60001] ∧ s.mgmt.mode ≠ .standby) ∧
    (∃ s, Maps s [32#8, 1#8, 0#8, 0#8] [0#8, 0#8] 32 1) ∧ (∃ s, Maps s [0#8, 0#8] [] 0 0) ∧
    (∃ s, Maps s [31#8, 2#8, 0#8, 0#8, 0#8, 0#8] [0#8, 0#8, 0#8, 0#8] 31 2) ∧
    (∃ s, Maps s [0#8, 1#8, 8#8, 0#8] [8#8, 0#8] 0 1) ∧ (∃ s, Maps s [0#8, 1#8, 0xFF#8, 8#8] [0xFF#8, 8#8] 0 1) ∧
    (∃ s, Measures s 8 0 0 0 0) ∧ (∃ s, Measures s 0 4 0 0 0) ∧ (∃ s, Measures s 0 0 4096 0 0) ∧ (∃ s, Measures s 0 0 0 4096 0) ∧
    (∃ s, Measures s 0 0 0 0 4096) ∧
    (∃ s : State, Serves s (req 22 [15#8]) [] ∧ s.mgmt.mode = .setup) ∧ (∃ s : State, Serves s (req 22 [0xFF#8]) [] ∧ s.mgmt.mode = .setup) ∧
    ∃ s : State, Serves s (req 22 [16#8]) [] ∧ s.mgmt.mode = .setup :=
  let open7 := inSwath (swathOf 1 0 0) running
  let m (args : List Byte) : State := asked 4 args State.reset
  let v (v w a b c : Nat) : State := asked 6 (be 1 v ++ be 1 w ++ be 2 a ++ be 2 b ++ be 2 c) running
  ⟨⟨asked 4 [30#8, 2#8, 7#8, 7#8, 0xFF#8, 0#8] State.reset, by decide +kernel⟩,
    ⟨asked 6 (volumeArgs 4095 0 4095) running, by decide +kernel⟩, ⟨asked 6 (volumeArgs 4095 0 4095) open7, by decide +kernel⟩,
    ⟨asked 10 (be 2 10) running, by decide +kernel⟩, ⟨asked 10 (be 2 60000) open7, by decide +kernel⟩,
    ⟨asked 10 (be 2 9) running, by decide +kernel⟩, ⟨asked 10 (be 2 60001) running, by decide +kernel⟩,
    ⟨m [32#8, 1#8, 0#8, 0#8], by decide +kernel⟩, ⟨m [0#8, 0#8], by decide +kernel⟩,
    ⟨m [31#8, 2#8, 0#8, 0#8, 0#8, 0#8], by decide +kernel⟩, ⟨m [0#8, 1#8, 8#8, 0#8], by decide +kernel⟩,
    ⟨m [0#8, 1#8, 0xFF#8, 8#8], by decide +kernel⟩, ⟨v 8 0 0 0 0, by decide +kernel⟩, ⟨v 0 4 0 0 0, by decide +kernel⟩,
    ⟨v 0 0 4096 0 0, by decide +kernel⟩, ⟨v 0 0 0 4096 0, by decide +kernel⟩, ⟨v 0 0 0 0 4096, by decide +kernel⟩,
    ⟨asked 22 [15#8] State.reset, by decide +kernel⟩, ⟨asked 22 [0xFF#8] State.reset, by decide +kernel⟩,
    ⟨asked 22 [16#8] State.reset, by decide +kernel⟩⟩

def loadArgs (k : Nat) : List Byte := be 1 k ++ be 16 5

abbrev Loads (s : State) (k : Nat) : Prop :=
  Serves s (req 13 (loadArgs k)) [] ∧ keyLoadArgs (loadArgs k) = some (k, 5) ∧ s.mgmt.mode = .setup

theorem test_witness_KeyRequests :
    (∃ s, Loads s 7 ∧ loadPending s.keys 7 = false ∧ nth s.keys.image 7 = .empty) ∧
    (∃ s, Loads s 7 ∧ loadPending s.keys 7 = false ∧ nth s.keys.image 7 = .revoked 4) ∧ (∃ s, Loads s 8) ∧
    (∃ s, Loads s 7 ∧ loadPending s.keys 7 = true) ∧ (∃ s, Loads s 7 ∧ nth s.keys.image 7 = .loaded 5) ∧
    (∃ s, Loads s 7 ∧ loadPending s.keys 7 = false ∧ nth s.keys.image 7 = .revoked 5) ∧
    (∃ s : State, Serves s (req 14 [7#8]) [] ∧ s.mgmt.mode = .setup ∧ nth s.keys.image 7 = .loaded 5 ∧
      (s.slot 15).identity = some (idOf 5) ∧ (idOf 5).keyId = (7 : KeyNo).val ∧ (s.slot 15).state.authenticated = true ∧
      (s.slot 0).identity = none) ∧
    (∃ s : State, Serves s (req 14 [8#8]) [] ∧ s.mgmt.mode = .setup) ∧
    (∃ s : State, Serves s (req 14 [7#8]) [] ∧ s.mgmt.mode = .setup ∧ nth s.keys.image 7 = .empty) ∧
    ∃ s : State, Serves s (req 14 [7#8]) [] ∧ s.mgmt.mode = .setup ∧ nth s.keys.image 7 = .revoked 5 :=
  let l (k : Nat) (s : State) : State := asked 13 (loadArgs k) s
  let w : KeyWrite := { key := 7, entry := .loaded 5, tag := 1, kind := 13 }
  ⟨⟨l 7 State.reset, by decide +kernel⟩, ⟨l 7 (withKey 7 (.revoked 4) State.reset), by decide +kernel⟩, ⟨l 8 State.reset, by decide +kernel⟩,
    ⟨l 7 { State.reset with keys := { State.reset.keys with current := some w } }, by decide +kernel⟩,
    ⟨l 7 (withKey 7 (.loaded 5) State.reset), by decide +kernel⟩, ⟨l 7 (withKey 7 (.revoked 5) State.reset), by decide +kernel⟩,
    ⟨asked 14 [7#8] (withSlot 15 (.retiring .marking) (withKey 7 (.loaded 5) State.reset)), by decide +kernel⟩,
    ⟨asked 14 [8#8] State.reset, by decide +kernel⟩, ⟨asked 14 [7#8] State.reset, by decide +kernel⟩,
    ⟨asked 14 [7#8] (withKey 7 (.revoked 5) State.reset), by decide +kernel⟩⟩

def rangeArgs (first last : Nat) : List Byte := be 6 first ++ be 6 last

abbrev Denies (s : State) (first last : Nat) : Prop :=
  Serves s (req 16 (rangeArgs first last)) [] ∧ fields [6, 6] (rangeArgs first last) = some [first, last] ∧ s.mgmt.mode = .setup

theorem test_witness_DenyListRequests :
    (∃ s, Denies s 5 5 ∧ s.deny.length = 31 ∧ (s.slot 15).identity = some (idOf 5) ∧ (s.slot 15).state.isChallenging = true ∧
      (s.slot 0).identity = none) ∧
    (∃ s, Denies s 6 5) ∧ (∃ s, Denies s 5 5 ∧ s.deny.length = 32) ∧
    (∃ s : State, Serves s (req 17 [0#8]) [] ∧ s.mgmt.mode ≠ .setup) ∧
    (∃ s : State, Serves s (req 17 [2#8]) [] ∧ s.mgmt.mode = .setup ∧ s.deny.length = 2) ∧
    (∃ s : State, Serves s (req 17 [1#8]) [] ∧ s.mgmt.mode = .setup ∧ s.deny.length = 2) ∧ ∃ s : State, Serves s (req 18 []) [] :=
  let two : State := { State.reset with deny := [⟨1, 2⟩, ⟨5, 5⟩] }
  ⟨⟨asked 16 (rangeArgs 5 5) { withSlot 15 (.challenging .first) State.reset with deny := List.replicate 31 ⟨0, 0⟩ }, by decide +kernel⟩,
    ⟨asked 16 (rangeArgs 6 5) State.reset, by decide +kernel⟩,
    ⟨asked 16 (rangeArgs 5 5) { State.reset with deny := List.replicate 32 ⟨0, 0⟩ }, by decide +kernel⟩,
    ⟨asked 17 [0#8] running, by decide +kernel⟩, ⟨asked 17 [2#8] two, by decide +kernel⟩, ⟨asked 17 [1#8] two, by decide +kernel⟩,
    ⟨asked 18 [] asleep, by decide +kernel⟩⟩

theorem test_witness_SlotAndHistoryRequests :
    (∃ s : State, Serves s (req 20 [15#8]) [] ∧ s.mgmt.mode ≠ .standby ∧ (s.slot 15).state = .rejected .duplicate) ∧
    (∃ s : State, Serves s (req 20 [15#8]) [] ∧ s.mgmt.mode ≠ .standby ∧ (s.slot 15).state = .faulted .commitRefused ∧
      Holds s (entryOf 5 .inUse) ∧ s.history.pending = [] ∧ s.history.writing = none) ∧
    (∃ s : State, Serves s (req 21 [15#8]) [] ∧ s.mgmt.mode ≠ .standby ∧ (s.slot 15).state = ReturnState.depleted.state) ∧
    (∃ s : State, Serves s (req 20 [16#8]) [] ∧ s.mgmt.mode ≠ .standby) ∧ (∃ s : State, Serves s (req 21 [16#8]) [] ∧ s.mgmt.mode ≠ .standby) ∧
    (∃ s : State, Serves s (req 20 [15#8]) [] ∧ s.mgmt.mode ≠ .standby ∧ (s.slot 15).state = .genuine) ∧
    (∃ s : State, Serves s (req 21 [15#8]) [] ∧ s.mgmt.mode ≠ .standby ∧ (s.slot 15).state = .retiring .marking) ∧
    (∃ s : State, Serves s (req 24 []) [] ∧ s.mgmt.mode = .setup ∧ s.history.scanning = false ∧
      s.history.entry 63 = some (entryOf 5 .removed) ∧ s.history.entry 0 = none ∧ ∀ j, (s.slot j).lastAuth = none) ∧
    (∃ s : State, Serves s (req 24 []) [] ∧ s.mgmt.mode = .setup ∧ s.history.scanning = false ∧
      s.history.entry 63 = some (entryOf 5 .exhausted) ∧ (s.slot 15).lastAuth ≠ none ∧ (s.slot 15).serial? = some 5) ∧
    ∃ s : State, Serves s (req 24 []) [] ∧ s.mgmt.mode = .setup ∧ s.history.scanning = true :=
  ⟨⟨asked 20 [15#8] (withSlot 15 (.rejected .duplicate) running), by decide +kernel⟩,
    ⟨asked 20 [15#8] (withSlot 15 (.faulted .commitRefused) (withEntry 63 (entryOf 5 .inUse) running)), by decide +kernel⟩,
    ⟨asked 21 [15#8] (withSlot 15 .depleted running), by decide +kernel⟩, ⟨asked 20 [16#8] running, by decide +kernel⟩,
    ⟨asked 21 [16#8] running, by decide +kernel⟩, ⟨asked 20 [15#8] (withSlot 15 .genuine running), by decide +kernel⟩,
    ⟨asked 21 [15#8] (withSlot 15 (.retiring .marking) running), by decide +kernel⟩,
    ⟨asked 24 [] (withEntry 63 (entryOf 5 .removed) State.reset), by decide +kernel⟩,
    ⟨asked 24 [] (withSlot 15 .exhausted (withEntry 63 (entryOf 5 .exhausted) State.reset)), by decide +kernel⟩,
    ⟨asked 24 [] State.reset, by decide +kernel⟩⟩

def audited (st : AuditState) : State := (withSlot 15 .genuine running).setAudit { slot := some 15, mode := .pause, state := st, failing := [6] }

def restAt (p : PassPosition) (view : List (RecNo × Nat)) (writeEnded : Bool) : AuditPass :=
  { position := p, awaited := none, view, writeEnded }

/-- AUDIT CONTINUE is asked of an audit of slot 15 that is PAUSED in a pass. -/
def resting (m : AuditMode) (pass : AuditPass) : State :=
  asked 26 [] ((audited .paused).setAudit { slot := some 15, mode := m, state := .paused, failing := [6], pass := some pass })

abbrev Continues (s : State) (m : AuditMode) (pass : AuditPass) : Prop :=
  Serves s (req 26 []) [] ∧ s.audit.state = .paused ∧ s.audit.slot = some 15 ∧ s.audit.mode = m ∧ s.audit.pass = some pass

theorem test_witness_AuditRequests :
    (∃ s : State, Serves s (req 25 [15#8, 2#8, 1#8]) [] ∧ (2#8).toNat = AuditMode.loop.no ∧ (1#8).toNat = flagNo true ∧
      s.mgmt.mode ≠ .standby ∧ s.audit.state.active = false ∧ (s.slot 15).state.auditEligible = true) ∧
    (∃ s : State, Serves s (req 25 [16#8, 0#8, 0#8]) [] ∧ s.mgmt.mode ≠ .standby) ∧
    (∃ s : State, Serves s (req 25 [0#8, 3#8, 0#8]) [] ∧ s.mgmt.mode ≠ .standby) ∧
    (∃ s : State, Serves s (req 25 [0#8, 0#8, 2#8]) [] ∧ s.mgmt.mode ≠ .standby) ∧
    (∃ s : State, Serves s (req 25 [15#8, 0#8, 0#8]) [] ∧ s.mgmt.mode ≠ .standby ∧ s.audit.state.active = true) ∧
    (∃ s : State, Serves s (req 25 [15#8, 0#8, 0#8]) [] ∧ s.mgmt.mode ≠ .standby ∧ s.audit.state.active = false ∧
      (s.slot 15).state.auditEligible = false) ∧
    (∃ s : State, Serves s (req 26 []) [] ∧ s.audit.state = .paused ∧ s.audit.slot = some 15 ∧
      s.audit.pass = some { position := .index 7, awaited := none, view := [], writeEnded := false }) ∧
    (∃ s pass, Continues s .pause pass ∧ pass.position = .nextPass) ∧
    (∃ s pass, Continues s .pause pass ∧ pass.position = .check ∧ pass.writeEnded = true ∧ pass.view = [] ∧
      (3 : RecNo).val = (s.slot 15).sequence % 8) ∧
    (∃ s pass, Continues s .once pass ∧ pass.position = .check ∧ pass.writeEnded = false ∧ (∀ r ∈ pass.view, r.2 % 8 = r.1.val) ∧
      (pass.view.map Prod.snd).foldl max 0 = (s.slot 15).sequence ∧ (3 : RecNo).val = (s.slot 15).sequence % 8) ∧
    (∀ m, ∃ s pass, Continues s m pass ∧ pass.position = .check ∧ pass.writeEnded = false ∧ (∀ r ∈ pass.view, r.2 % 8 = r.1.val) ∧
      (pass.view.map Prod.snd).foldl max 0 ≠ (s.slot 15).sequence ∧ (3 : RecNo).val = (s.slot 15).sequence % 8) ∧
    (∀ m, ∃ s pass, Continues s m pass ∧ pass.position = .check ∧ pass.writeEnded = false ∧
      pass.view = [(0, 8)] ++ ((7 : RecNo), 16) :: [] ∧ 16 % 8 ≠ (7 : RecNo).val ∧ ∀ r ∈ [((0 : RecNo), 8)], r.2 % 8 = r.1.val) ∧
    (∃ s : State, Serves s (req 26 []) [] ∧ s.audit.state ≠ .paused) ∧ (∃ s : State, Serves s (req 27 []) [] ∧ s.audit.state = .running) ∧
    (∃ s : State, Serves s (req 27 []) [] ∧ s.audit.state = .stopping) ∧
    (∃ s : State, Serves s (req 27 []) [] ∧ s.audit.state = .paused ∧ s.audit.slot = some 15) ∧
    (∃ s : State, Serves s (req 27 []) [] ∧ s.audit.state = .idle) ∧ (∃ s : State, Serves s (req 27 []) [] ∧ s.audit.state = .done) ∧
    ∃ s : State, Serves s (req 27 []) [] ∧ s.audit.state = .aborted .commitPressure :=
  let start (x y : Byte) (s : State) : State := asked 25 [15#8, x, y] s
  let p : AuditPass := { position := .index 7, awaited := none, view := [], writeEnded := false }
  ⟨⟨start 2 1 (withSlot 15 (.challenging (.wake .suspect)) running), by decide +kernel⟩,
    ⟨asked 25 [16#8, 0#8, 0#8] running, by decide +kernel⟩, ⟨asked 25 [0#8, 3#8, 0#8] running, by decide +kernel⟩,
    ⟨asked 25 [0#8, 0#8, 2#8] running, by decide +kernel⟩, ⟨start 0 0 (audited .paused), by decide +kernel⟩,
    ⟨start 0 0 (withSlot 15 (.retiring .finalWrite) running), by decide +kernel⟩,
    ⟨asked 26 [] ((audited .paused).setAudit { (audited .paused).audit with pass := some p }), by decide +kernel⟩,
    ⟨resting .pause (restAt .nextPass [] false), restAt .nextPass [] false, by decide +kernel⟩,
    ⟨resting .pause (restAt .check [] true), restAt .check [] true, by decide +kernel⟩,
    ⟨resting .once (restAt .check [(3, 3)] false), restAt .check [(3, 3)] false, by decide +kernel⟩,
    fun m => ⟨resting m (restAt .check [(2, 2)] false), restAt .check [(2, 2)] false, by cases m <;> decide +kernel⟩,
    fun m => ⟨resting m (restAt .check [(0, 8), (7, 16)] false), restAt .check [(0, 8), (7, 16)] false, by cases m <;> decide +kernel⟩,
    ⟨asked 26 [] (audited .stopping), by decide +kernel⟩, ⟨asked 27 [] (audited .running), by decide +kernel⟩,
    ⟨asked 27 [] (audited .stopping), by decide +kernel⟩, ⟨asked 27 [] (audited .paused), by decide +kernel⟩,
    ⟨asked 27 [] running, by decide +kernel⟩, ⟨asked 27 [] (audited .done), by decide +kernel⟩,
    ⟨asked 27 [] (audited (.aborted .commitPressure)), by decide +kernel⟩⟩

def entryArgs (n en i k period offset : Nat) : List Byte := be 1 n ++ be 1 en ++ be 1 i ++ be 1 k ++ be 2 period ++ be 2 offset

abbrev Plans (s : State) (n en i k period offset : Nat) : Prop :=
  Serves s (req 31 (entryArgs n en i k period offset)) [] ∧
    fields [1, 1, 1, 1, 2, 2] (entryArgs n en i k period offset) = some [n, en, i, k, period, offset]

theorem test_witness_ScheduleRequests :
    (∃ s : State, Serves s (req 29 []) [] ∧ s.mgmt.mode ≠ .standby) ∧ (∃ s : State, Serves s (req 30 []) [] ∧ s.schedule.running = true) ∧
    (∃ s : State, Serves s (req 30 []) [] ∧ s.schedule.running = false) ∧
    (∃ s, Plans s (63 : SchedNo).val (flagNo true) (15 : SlotNo).val WorkKind.audit.no 1 65535 ∧ s.schedule.running = true ∧
      s.schedule.tick + 65535 = 2 ^ 48 - 1) ∧
    (∃ s, Plans s 64 0 0 0 1 0) ∧ (∃ s, Plans s 0 2 0 0 1 0) ∧ (∃ s, Plans s 0 0 16 0 1 0) ∧ (∃ s, Plans s 0 0 0 3 1 0) ∧
    ∃ s, Plans s 0 0 0 0 0 0 :=
  let p (n en i k period offset : Nat) (s : State) : State := asked 31 (entryArgs n en i k period offset) s
  ⟨⟨asked 29 [] running, by decide +kernel⟩, ⟨asked 30 [] (scheduled { running := true }), by decide +kernel⟩,
    ⟨asked 30 [] running, by decide +kernel⟩,
    ⟨p 63 1 15 2 1 65535 (scheduled { running := true, tick := 2 ^ 48 - 65536 }), by decide +kernel⟩, ⟨p 64 0 0 0 1 0 running, by decide +kernel⟩,
    ⟨p 0 2 0 0 1 0 running, by decide +kernel⟩, ⟨p 0 0 16 0 1 0 running, by decide +kernel⟩, ⟨p 0 0 0 3 1 0 running, by decide +kernel⟩,
    ⟨p 0 0 0 0 0 0 running, by decide +kernel⟩⟩

/-- EVENT INSERT for a subject. -/
abbrev Inserts (s : State) (ty n : Nat) : Prop :=
  let args := be 1 ty ++ be 1 n ++ be 4 0
  Serves s (req 34 args) [] ∧ fields [1, 1, 4] args = some [ty, n, 0]

/-- EVENT INSERT is served for entry 63, with `n` events queued, `outgoing` waiting and the route of TEST_ENTRY as given. -/
def inserting (n : Nat) (route : Route) (outgoing : List OutFrame) : State :=
  let s := asked 34 ([4#8, 63#8] ++ be 4 9) asleep
  { s with
    events := { s.events with
      queue := List.replicate n { time := 0, kind := .levelLow, subject := .none, detail := 0 }
      routes := upd s.events.routes EventKind.testEntry.idx route }
    link := { s.link with outgoing, lane := some (.head headFrame) } }

/-- What every clause about the event that EVENT INSERT raises asks of the state. -/
abbrev InsertsEntry (s : State) (n : Nat) (route : Route) : Prop :=
  Serves s (req 34 ([4#8, 63#8] ++ be 4 9)) [] ∧
    fields [1, 1, 4] ([4#8, 63#8] ++ be 4 9) = some [(Subject.entry 63).typeNo, (Subject.entry 63).no, 9] ∧
    s.events.queue.length = n ∧ nth s.events.routes EventKind.testEntry.idx = route

theorem test_witness_EventAndTimeRequests_inserted :
    (∃ s, InsertsEntry s 0 ⟨true, false⟩ ∧ s.link.outgoing = []) ∧ (∃ s, InsertsEntry s 1 ⟨true, false⟩) ∧
    (∃ s, InsertsEntry s 255 ⟨true, true⟩ ∧ s.link.outgoing = [responseT1, noticeOf 3, responseT1]) ∧
    (∃ s, InsertsEntry s 256 ⟨true, false⟩ ∧ s.events.overrun = false) ∧ (∃ s, InsertsEntry s 256 ⟨false, true⟩ ∧ s.link.outgoing = []) ∧
    ∃ s, InsertsEntry s 0 ⟨false, false⟩ :=
  ⟨⟨inserting 0 ⟨true, false⟩ [], by decide +kernel⟩, ⟨inserting 1 ⟨true, false⟩ [], by decide +kernel⟩,
    ⟨inserting 255 ⟨true, true⟩ [responseT1, noticeOf 3, responseT1], by decide +kernel⟩,
    ⟨inserting 256 ⟨true, false⟩ [], by decide +kernel⟩, ⟨inserting 256 ⟨false, true⟩ [], by decide +kernel⟩,
    ⟨inserting 0 ⟨false, false⟩ [], by decide +kernel⟩⟩

/-- R66, R169: an event that overwrites sets the overrun flag, and one that notifies brings the waiting notice up to date. -/
theorem test_inserted_event_overruns_and_notifies :
    let t := after .eventInsert (inserting 256 ⟨true, true⟩ [noticeOf 3])
    t.events.overrun = true ∧ t.events.queue.length = 256 ∧
      t.link.outgoing.head? = some (.notice { count := 256, overrun := true, cause := .testEntry, subject := .entry 63 }) := by
  decide +kernel

theorem test_witness_EventAndTimeRequests :
    (∃ s : State, Serves s (req 33 [16#8]) []) ∧ (∃ s : State, Serves s (req 33 [1#8]) []) ∧ (∃ s : State, Serves s (req 33 [17#8]) []) ∧
    (∃ s : State, Serves s (req 33 [0#8]) []) ∧
    (∃ s : State, Serves s (req 34 ([4#8, 63#8] ++ be 4 (2 ^ 32 - 1))) [] ∧
      fields [1, 1, 4] ([4#8, 63#8] ++ be 4 (2 ^ 32 - 1)) = some [(Subject.entry 63).typeNo, (Subject.entry 63).no, 2 ^ 32 - 1]) ∧
    (∃ s, Inserts s 5 0) ∧ (∃ s, Inserts s 0 1) ∧ (∃ s, Inserts s 1 16) ∧ (∃ s, Inserts s 2 8) ∧ (∃ s, Inserts s 3 32) ∧
    (∃ s, Inserts s 4 64) ∧ (∃ s : State, Serves s (req 35 [0#8, 0#8, 0#8]) []) ∧ (∃ s : State, Serves s (req 35 [29#8, 0#8, 0#8]) []) ∧
    (∃ s : State, Serves s (req 35 [254#8, 0#8, 0#8]) []) ∧ (∃ s : State, Serves s (req 35 [1#8, 2#8, 0#8]) []) ∧
    (∃ s : State, Serves s (req 35 [1#8, 0#8, 2#8]) []) ∧
    (∃ s : State, Serves s (req 35 [28#8, 1#8, 0#8]) [] ∧ (1#8).toNat = flagNo true ∧ (0#8).toNat = flagNo false ∧
      (28#8).toNat = EventKind.testEntry.no) ∧
    (∃ s : State, Serves s (req 35 [0xFF#8, 0#8, 1#8]) []) ∧ (∃ s : State, Serves s (req 37 [0#8]) []) ∧
    (∃ s : State, Serves s (req 37 [1#8]) []) ∧ (∃ s : State, Serves s (req 37 [2#8]) []) ∧
    (∃ s : State, Serves s (req 43 (be 6 (2 ^ 48 - 1))) [] ∧ fields [6] (be 6 (2 ^ 48 - 1)) = some [2 ^ 48 - 1]) ∧
    ∃ s : State, Serves s (req 44 []) [] :=
  let i (ty n : Nat) : State := asked 34 (be 1 ty ++ be 1 n ++ be 4 0) asleep
  ⟨⟨asked 33 [16#8] asleep, by decide +kernel⟩, ⟨asked 33 [1#8] asleep, by decide +kernel⟩, ⟨asked 33 [17#8] asleep, by decide +kernel⟩,
    ⟨asked 33 [0#8] asleep, by decide +kernel⟩, ⟨asked 34 ([4#8, 63#8] ++ be 4 (2 ^ 32 - 1)) asleep, by decide +kernel⟩,
    ⟨i 5 0, by decide +kernel⟩, ⟨i 0 1, by decide +kernel⟩, ⟨i 1 16, by decide +kernel⟩, ⟨i 2 8, by decide +kernel⟩,
    ⟨i 3 32, by decide +kernel⟩, ⟨i 4 64, by decide +kernel⟩, ⟨asked 35 [0#8, 0#8, 0#8] asleep, by decide +kernel⟩,
    ⟨asked 35 [29#8, 0#8, 0#8] asleep, by decide +kernel⟩, ⟨asked 35 [254#8, 0#8, 0#8] asleep, by decide +kernel⟩,
    ⟨asked 35 [1#8, 2#8, 0#8] asleep, by decide +kernel⟩, ⟨asked 35 [1#8, 0#8, 2#8] asleep, by decide +kernel⟩,
    ⟨asked 35 [28#8, 1#8, 0#8] asleep, by decide +kernel⟩, ⟨asked 35 [0xFF#8, 0#8, 1#8] asleep, by decide +kernel⟩,
    ⟨asked 37 [0#8] asleep, by decide +kernel⟩, ⟨asked 37 [1#8] asleep, by decide +kernel⟩, ⟨asked 37 [2#8] asleep, by decide +kernel⟩,
    ⟨asked 43 (be 6 (2 ^ 48 - 1)) asleep, by decide +kernel⟩, ⟨asked 44 [] asleep, by decide +kernel⟩⟩

/-- A key is loaded, and head 0 is mapped to channel 7, which is in use. -/
def fit (m : Mode) : State := inMode m (withKey 7 (.loaded 5) (mapped (some 7) (withChannel 7 feeding (withSlot 15 .genuine State.reset))))

/-- MODE SET is served with these arguments in another mode. -/
abbrev Turns (s : State) (m : Mode) (now : Byte) : Prop :=
  Serves s (req 41 [BitVec.ofNat 8 m.no, now]) [] ∧ (BitVec.ofNat 8 m.no).toNat = m.no ∧ m ≠ s.mgmt.mode

theorem test_witness_ModeSet :
    (∃ s : State, Serves s (req 41 [1#8, 1#8]) [] ∧ (1#8).toNat = Mode.run.no ∧ Mode.run = s.mgmt.mode) ∧
    (∃ s, Turns s .run 0 ∧ ready s = false) ∧
    (∃ s, Turns s .run 0 ∧ nth s.keys.image 7 = .loaded 5 ∧ (nth s.meter.headMap 0).channel = some 7 ∧ (s.chan 7).ink ≠ 0 ∧
      s.mgmt.mode = .setup ∧ s.keys.current ≠ none) ∧
    (∃ s : State, Serves s (req 41 [3#8, 0#8]) []) ∧ (∃ s : State, Serves s (req 41 [0#8, 2#8]) []) ∧
    (∃ s, Turns s .setup 0 ∧ s.mgmt.mode ≠ .standby ∧ s.tracker.current ≠ none) ∧
    (∃ s, Turns s .setup 1 ∧ s.mgmt.mode ≠ .standby ∧ s.tracker.current ≠ none ∧ (s.chan 7).gate = .opened) ∧
    (∃ s, Turns s .setup 0 ∧ s.mgmt.mode ≠ .standby ∧ s.tracker.current = none ∧ (s.slot 15).state.commitEligible = true ∧
      (s.slot 15).committed < (s.slot 15).consumed ∧ heldSlot s ≠ some 15 ∧ isPending s 15 .usageWrite = false) ∧
    (∃ s, Turns s .setup 0 ∧ s.mgmt.mode ≠ .standby ∧ s.tracker.current = none ∧ (s.slot 15).state.commitEligible = true ∧
      (s.slot 15).committed < (s.slot 15).consumed ∧ heldSlot s ≠ some 15 ∧ isPending s 15 .usageWrite = true) ∧
    (∃ s, Turns s .setup 0 ∧ s.mgmt.mode ≠ .standby ∧ s.tracker.current = none ∧ (s.slot 15).state.commitEligible = true ∧
      (s.slot 15).committed < (s.slot 15).consumed ∧ heldSlot s = some 15) ∧
    ∃ s, Turns s .run 0 ∧ ready s = true ∧ ¬(s.mgmt.mode = .setup ∧ keyWriteBusy s = true) ∧ s.mgmt.mode ≠ .standby ∧
      s.tracker.current = none ∧ (s.chan 7).ink ≠ 0 ∧ OnlySevenFeeds s :=
  let w : KeyWrite := { key := 0, entry := .loaded 5, tag := 1, kind := 13 }
  let sw := swathOf 1 0 0
  let back : State := asked 41 [0#8, 0#8] (drawn .genuine 101)
  ⟨⟨asked 41 [1#8, 1#8] running, by decide +kernel⟩, ⟨asked 41 [1#8, 0#8] State.reset, by decide +kernel⟩,
    ⟨asked 41 [1#8, 0#8] { fit .setup with keys := { (fit .setup).keys with current := some w } }, by decide +kernel⟩,
    ⟨asked 41 [3#8, 0#8] running, by decide +kernel⟩, ⟨asked 41 [0#8, 2#8] running, by decide +kernel⟩,
    ⟨asked 41 [0#8, 0#8] (inSwath sw running), by decide +kernel⟩, ⟨asked 41 [0#8, 1#8] (inSwath sw (fit .run)), by decide +kernel⟩,
    ⟨back, by decide +kernel⟩, ⟨queued .running [txOf 15 .usageWrite] back, by decide +kernel⟩, ⟨heldBy back, by decide +kernel⟩,
    ⟨asked 41 [1#8, 0#8] (withChannel 7 { feeding with gate := .closed } (fit .setup)), by decide +kernel⟩⟩

theorem test_witness_StandbyAndWake :
    (∃ (w : OpenSwath) (s : State), Turns s .standby 0 ∧ ¬(s.mgmt.mode = .setup ∧ keyWriteBusy s = true) ∧ s.tracker.current = some w ∧
      s.audit.slot ≠ none ∧ (s.line 0).condition = .running ∧ (s.line 1).condition = .held) ∧
    (∃ s, Turns s .standby 1 ∧ s.mgmt.mode = .run ∧ s.tracker.current = none ∧ (s.slot 15).state.commitEligible = true ∧
      (s.slot 15).committed < (s.slot 15).consumed ∧ heldSlot s ≠ some 15 ∧ isPending s 15 .usageWrite = true) ∧
    (∃ s, Turns s .standby 1 ∧ s.mgmt.mode = .run ∧ (s.slot 15).state.commitEligible = true ∧
      (s.slot 15).committed < (s.slot 15).consumed ∧ heldSlot s = some 15) ∧
    (∃ s : State, s.powered = true ∧ (s.line 3).condition = .draining ∧ (s.line 3).flight = none ∧ (s.line 3).queue = [] ∧
      ∀ p k, (nth (s.line 3).owed p).has k = false) ∧
    (∃ s : State, s.powered = true ∧ (s.line 3).condition ≠ .draining) ∧
    (∃ s : State, s.powered = true ∧ (s.line 3).condition = .draining ∧ (s.line 3).queue ≠ []) ∧
    (∃ (s : State) (p : TagPos) (k : TxKind), s.powered = true ∧ (s.line 3).condition = .draining ∧ (s.line 3).queue = [] ∧
      (nth (s.line 3).owed p).has k = true) ∧
    (∃ s, Turns s .run 0 ∧ s.mgmt.mode = .standby ∧ ready s = true ∧ s.tracker.current = none ∧ s.audit.state.active = false ∧
      (s.slot 15).state = ReturnState.genuine.state ∧ (s.line 3).condition = .stopped ∧ (s.line 0).condition = .held) ∧
    (∃ s, Turns s .setup 1 ∧ s.mgmt.mode = .standby ∧ s.tracker.current = none ∧ s.audit.state.active = false ∧
      (s.slot 15).state = .challenging (.rechallenge .depleted)) ∧
    ∃ s, Turns s .setup 1 ∧ s.mgmt.mode = .standby ∧ s.tracker.current = none ∧ s.audit.state.active = false ∧
      (s.slot 15).state = .settling ∧ (nth s.presence 15).wakeMark = true :=
  let sw := swathOf 1 0 0
  let behind : State := asked 41 [2#8, 1#8] (drawn .genuine 101)
  let wakes (s : State) : State := asked 41 [0#8, 1#8] (inMode .standby s)
  ⟨⟨sw, asked 41 [2#8, 0#8] ((inSwath sw (audited .running)).setLine 0 { condition := .running }), by decide +kernel⟩,
    ⟨queued .running [txOf 15 .usageWrite] behind, by decide +kernel⟩, ⟨heldBy behind, by decide +kernel⟩,
    ⟨queued .draining [] running, rfl, rfl, rfl, rfl, none_owed (by decide +kernel)⟩, ⟨running, by decide +kernel⟩,
    ⟨queued .draining [txOf 15 .identify] running, by decide +kernel⟩, ⟨owing [] running, 0, .usageWrite, by decide +kernel⟩,
    ⟨asked 41 [1#8, 0#8] (queued .stopped [] (fit .standby)), by decide +kernel⟩,
    ⟨wakes (withSlot 15 (.challenging (.rechallenge .depleted)) running), by decide +kernel⟩,
    ⟨wakes (contact 15 { closed := true, timer := none, wakeMark := true } (withSlot 15 .settling running)), by decide +kernel⟩⟩

/-! ## Witnesses of the laws -/

/-- Channel 7 feeds with its gate open and a drop part way to a nanolitre; a scan end waits in the queue. -/
def lawfulState : State := { (withChannel 7 feeding running).setCounters 7 { metered := 7, remainder := 7 } with pending := [.scanEnd] }

theorem test_witness_lawful_step : step lawfulState = .next (after .scanEnd { lawfulState with pending := [] }) := rfl

theorem test_witness_StepsKeepTheCounterLaw : CountersLawful lawfulState := by
  unfold CountersLawful Counters.lawful
  decide +kernel

theorem test_witness_StepsKeepTheQueueBounds : PlacesLawful lawfulState ∧ ListsLawful lawfulState := by
  refine ⟨by unfold PlacesLawful; decide +kernel, by decide +kernel, by decide +kernel, by decide +kernel, fun l => ?_⟩
  refine ⟨(by decide +kernel : ∀ l, (lawfulState.line l).queue.length ≤ 8) l, fun ⟨p, k, h⟩ => ?_⟩
  rw [none_owed ((by decide +kernel : ∀ l p, nth (lawfulState.line l).owed p = {}) l)] at h
  cases h

theorem test_witness_StepsKeepTheChannelLaws : ChannelsLawful lawfulState := channels_lawful (by decide +kernel)

/-- An indicator is lit: every slot is not PRESENT. -/
def litState : State := lamp { fields := lampFields .steady 0 true, result := true, active := true } (reported lawfulState)

theorem test_witness_StepsKeepLiveValuesTrue :
    (LiveAgree litState ∧ LatchesLawful litState) ∧ ResultsAgree litState ∧ (nth litState.indicators 7).result = true ∧
    ∃ (c : Instr) (s t : State), exec c s = .next t ∧ c ≠ .conditionRead ∧
      (∀ pins, c ≠ .powerOn pins ∧ c ≠ .resetLine pins ∧ c ≠ .transmissionEnd pins) ∧ ∀ a b, c ≠ .powerLoss a b :=
  ⟨reported_lawful lawfulState, resultsAgree_iff.mpr (by decide +kernel), by decide +kernel,
    .scanEnd, litState, after .scanEnd litState, rfl, nofun, fun _ => ⟨nofun, nofun, nofun⟩, nofun⟩

/-- R175: a latch that caught a rise keeps it when the value falls. -/
theorem test_latch_keeps_its_catch :
    let s := { running with events := { running.events with
      slotLive := upd (fill {}) 3 { low := true }, slotLatch := upd (fill {}) 3 { low := true } } }
    let t := after .historyWriteEnd (reportConditions s)
    (nth t.events.slotLive 3).low = false ∧ (nth t.events.slotLatch 3).low = true := by decide +kernel

/-- A part in STANDBY keeps the laws of STANDBY, and so does a running one. -/
theorem test_witness_StepsKeepStandbyLaws : StandbyLawful asleep ∧ StandbyLawful lawfulState := by
  unfold StandbyLawful
  decide +kernel

theorem test_witness_StepsKeepSerialsDistinct : SerialsDistinct lawfulState := by
  have unclaimed : ∀ i, (lawfulState.slot i).claims = false := by decide +kernel
  intro i j serial hi
  rw [unclaimed i] at hi
  cases hi

theorem test_witness_HeadMapDenyListAndChannelSetupHold :
    ∃ (c : Instr) (s t : State), s.mgmt.mode ≠ .setup ∧ exec c s = .next t ∧
      (∀ pins, c ≠ .powerOn pins ∧ c ≠ .resetLine pins ∧ c ≠ .transmissionEnd pins) ∧ ∀ a b, c ≠ .powerLoss a b :=
  ⟨.historyWriteEnd, running, after .historyWriteEnd running, by decide +kernel, rfl,
    fun _ => ⟨nofun, nofun, nofun⟩, nofun⟩

theorem test_witness_WireFramesRoundTrip :
    kindLengthOk { kind := 0x14#8, hdr := 40#8, body := List.replicate 2048 0#8 } = true ∧
      (fire.lengthOk = true ∧ addressOf fire.hdr = 31) ∧ addressOf 40#8 = 40 := by decide +kernel

end Sys2Proof.Tests
end

section
/-!
SUPPORT. What proofs about frames and requests share: numbers in range, records read across a frame, how a served request ends, and
what serving it or a good frame's arrival leaves alone.
-/

namespace Sys2Proof.Machine

/-! ## Numbers in range -/

theorem asFin_of_val {n v : Nat} {i : Fin n} (h : v = i.val) : asFin n v = some i := by
  subst h
  exact dif_pos i.isLt

theorem asFin_eq_none {n v : Nat} (h : n ≤ v) : asFin n v = none := dif_neg (Nat.not_lt.2 h)

theorem lt_of_asFin {n v : Nat} {i : Fin n} (h : asFin n v = some i) : v < n := by
  by_contra hle
  rw [asFin_eq_none (Nat.not_lt.1 hle)] at h
  cases h

/-- A one-byte argument is the number of its byte. -/
theorem fields_byte (b : Byte) : fields [1] [b] = some [b.toNat] := by
  simp [fields, ofBe]

/-- A byte other than FFh is a number other than 255. -/
theorem byte_ne_all {b : Byte} (h : b ≠ 0xFF#8) : b.toNat ≠ 255 := fun e => h (BitVec.eq_of_toNat_eq e)

/-! ## Records across a frame -/

/-- A frame that names no part of a channel record keeps the records whole. -/
theorem chan_of_keeps {fs : List Part} {s t : State} (h : Keeps fs s t)
    (hc : ∀ p ∈ [Part.channelSetup, .channelLimits, .supply, .selectionHeld, .switched], p ∉ fs := by decide +kernel)
    (c : ChannelNo) : t.chan c = s.chan c := by
  have hsetup := h .channelSetup (hc _ (by decide)) c
  have hlimits := h .channelLimits (hc _ (by decide)) c
  have hsupply := h .supply (hc _ (by decide)) c
  have hheld := h .selectionHeld (hc _ (by decide)) c
  have hswitched := h .switched (hc _ (by decide)) c
  simp only [Channel.setup, Channel.supply, Prod.mk.injEq] at hsetup hsupply
  cases ht : t.chan c
  cases hs : s.chan c
  simp_all

/-- A placing reads the channel and slot records alone. -/
theorem placing_congr {s t : State} {c : ChannelNo} (hc : t.chan c = s.chan c) (hs : ∀ i, t.slot i = s.slot i) (d : Nat) :
    placing t c d = placing s c d := by
  unfold placing
  simp only [hc, hs]

/-! ## Served requests -/

theorem live_served {s : State} {r : Request} {rest : List Request} {code : Nat} (carry : Request → State → State)
    (h : Serves s r rest) (hk : r.kind.toNat = code) :
    live (serving code carry) s = .next (settle (carry r (takeRequest rest s))) := by
  rw [live_powered h.1, serving_serves carry h hk]

theorem quiet_served {s : State} {r : Request} {rest : List Request} {code : Nat} (carry : Request → State → State)
    (h : Serves s r rest) (hk : r.kind.toNat = code) :
    quiet (serving code carry) s = .next (kickLane (carry r (takeRequest rest s))) := by
  rw [quiet_powered h.1, serving_serves carry h hk]

/-- A request that can change records is carried out as stated if its rule, from the state that took it, only replies. -/
theorem carries_of_live {cmd : Instr} {code : Nat} {carry : Request → State → State} {k : BitVec 16} {args res : List Byte}
    {st : Status} {s t : State} (hx : exec cmd s = live (serving code carry) s) (hc : settles cmd = true) (hk : k.toNat = code)
    (h : ∀ tag rest, carry { tag, kind := k, args } (takeRequest rest s) =
      ({ tag, kind := k, args } : Request).reply st res (takeRequest rest t)) : Carries cmd k args st res s t := by
  intro tag rest hs
  rw [hx, live_served carry hs hk, h, reply_taken, finish, if_pos hc]

/-- The same of a request that changes no record. -/
theorem carries_of_quiet {cmd : Instr} {code : Nat} {carry : Request → State → State} {k : BitVec 16} {args res : List Byte}
    {st : Status} {s t : State} (hx : exec cmd s = quiet (serving code carry) s) (hc : settles cmd = false) (hk : k.toNat = code)
    (h : ∀ tag rest, carry { tag, kind := k, args } (takeRequest rest s) =
      ({ tag, kind := k, args } : Request).reply st res (takeRequest rest t)) : Carries cmd k args st res s t := by
  intro tag rest hs
  rw [hx, quiet_served carry hs hk, h, reply_taken, finish, if_neg (by simp [hc])]

/-! ## What an event and a good frame's arrival leave alone -/

@[simp] theorem raise_meter (k : EventKind) (a : Subject) (d : Nat) (s : State) : (raise k a d s).meter = s.meter := by
  unfold raise requestNotice
  dsimp only
  split <;> split <;> rfl

@[simp] theorem raise_tracker (k : EventKind) (a : Subject) (d : Nat) (s : State) : (raise k a d s).tracker = s.tracker := by
  unfold raise requestNotice
  dsimp only
  split <;> split <;> rfl

@[simp] theorem goodFrame_meter (s : State) : (goodFrame s).meter = s.meter := by
  unfold goodFrame
  dsimp only
  split <;> simp

@[simp] theorem goodFrame_tracker (s : State) : (goodFrame s).tracker = s.tracker := by
  unfold goodFrame
  dsimp only
  split <;> simp

@[simp] theorem goodFrame_mode (s : State) : (goodFrame s).mgmt.mode = s.mgmt.mode := (goodFrame_keeps s).get .mode

@[simp] theorem goodFrame_headOut (s : State) : (goodFrame s).link.headOut = s.link.headOut := (goodFrame_keeps s).get .headOut

@[simp] theorem goodFrame_chan (s : State) (c : ChannelNo) : (goodFrame s).chan c = s.chan c :=
  chan_of_keeps (goodFrame_keeps s) (by decide +kernel) c

@[simp] theorem goodFrame_slot (s : State) (i : SlotNo) : (goodFrame s).slot i = s.slot i :=
  slot_of_keeps (goodFrame_keeps s) (by decide +kernel) i

@[simp] theorem goodFrame_counter (s : State) (c : ChannelNo) : (goodFrame s).counter c = s.counter c :=
  counter_of_keeps (goodFrame_keeps s) (by decide +kernel) c

@[simp] theorem placing_goodFrame (s : State) (c : ChannelNo) (d : Nat) : placing (goodFrame s) c d = placing s c d :=
  placing_congr (goodFrame_chan s c) (goodFrame_slot s) d

end Sys2Proof.Machine
end

section
/-!
SUPPORT. FIRING frames (R28-R31): which treatment a frame gets, and what each treatment makes of the state.
-/

namespace Sys2Proof.Machine

/-! ## Which treatment -/

/-- R28, R30: the volume of a frame for head `h`, by the head's volume set in the active table. -/
def headVolume (s : State) (h : HeadNo) (f : FiringFrame) : Nat :=
  frameVolume (nth (nth s.meter.active (nth s.meter.headMap h).set) f.waveform.toFin) f.codes

theorem exec_firing_metered {s : State} {f : FiringFrame} {h : HeadNo} (hp : s.powered = true) (ha : addressOf f.hdr = h.val)
    (hm : s.mgmt.mode ≠ .standby) : exec (.firing f) s = .next (settle (meterFrame h f (goodFrame s))) := by
  have hf : firing f s = meterFrame h f (goodFrame s) := by
    unfold firing
    rw [asFin_of_val ha]
    exact if_neg (by simpa using hm)
  rw [← hf]
  exact live_powered hp

/-- R62: in STANDBY a frame for a head is dropped. -/
theorem exec_firing_standby {s : State} {f : FiringFrame} (hp : s.powered = true) (ha : addressOf f.hdr < 32)
    (hm : s.mgmt.mode = .standby) : exec (.firing f) s = .next (settle (goodFrame s)) := by
  have hf : firing f s = goodFrame s := by
    unfold firing
    rw [asFin_of_val (i := (⟨addressOf f.hdr, ha⟩ : HeadNo)) rfl]
    exact if_pos (by simpa using hm)
  conv_rhs => rw [← hf]
  exact live_powered hp

theorem meterFrame_unmapped {s : State} {h : HeadNo} (hc : (nth s.meter.headMap h).channel = none) (f : FiringFrame) :
    meterFrame h f s = discardFrame h f s := by
  simp only [meterFrame, hc]

theorem meterFrame_blanks {s : State} {h : HeadNo} {c : ChannelNo} {f : FiringFrame}
    (hc : (nth s.meter.headMap h).channel = some c)
    (hg : (s.chan c).gate = .closed ∨ 2 ^ 64 ≤ (s.counter c).metered + headVolume s h f) :
    meterFrame h f s = blankFrame f s := by
  simp only [meterFrame, hc]
  rcases hg with hg | hg
  · simp only [hg]
  · split
    · rfl
    · exact if_pos hg

theorem meterFrame_counts {s : State} {h : HeadNo} {c : ChannelNo} {f : FiringFrame}
    (hc : (nth s.meter.headMap h).channel = some c) (hg : (s.chan c).gate = .opened)
    (hv : (s.counter c).metered + headVolume s h f < 2 ^ 64) : meterFrame h f s = countFrame c f (headVolume s h f) s := by
  simp only [meterFrame, hc, hg]
  exact if_neg (Nat.not_le.2 hv)

@[simp] theorem headVolume_goodFrame (s : State) (h : HeadNo) (f : FiringFrame) : headVolume (goodFrame s) h f = headVolume s h f := by
  simp [headVolume]

theorem exec_firing_unmapped {s : State} {f : FiringFrame} {h : HeadNo} (hp : s.powered = true) (ha : addressOf f.hdr = h.val)
    (hm : s.mgmt.mode ≠ .standby) (hc : (nth s.meter.headMap h).channel = none) :
    exec (.firing f) s = .next (settle (discardFrame h f (goodFrame s))) := by
  rw [exec_firing_metered hp ha hm, meterFrame_unmapped (by simpa using hc)]

theorem exec_firing_blanked {s : State} {f : FiringFrame} {h : HeadNo} {c : ChannelNo} (hp : s.powered = true)
    (ha : addressOf f.hdr = h.val) (hm : s.mgmt.mode ≠ .standby) (hc : (nth s.meter.headMap h).channel = some c)
    (hg : (s.chan c).gate = .closed ∨ 2 ^ 64 ≤ (s.counter c).metered + headVolume s h f) :
    exec (.firing f) s = .next (settle (blankFrame f (goodFrame s))) := by
  rw [exec_firing_metered hp ha hm, meterFrame_blanks (c := c) (by simpa using hc) (by simpa using hg)]

theorem exec_firing_counted {s : State} {f : FiringFrame} {h : HeadNo} {c : ChannelNo} (hp : s.powered = true)
    (ha : addressOf f.hdr = h.val) (hm : s.mgmt.mode ≠ .standby) (hc : (nth s.meter.headMap h).channel = some c)
    (hg : (s.chan c).gate = .opened) (hv : (s.counter c).metered + headVolume s h f < 2 ^ 64) :
    exec (.firing f) s = .next (settle (countFrame c f (headVolume s h f) (goodFrame s))) := by
  rw [exec_firing_metered hp ha hm, meterFrame_counts (c := c) (by simpa using hc) (by simpa using hg) (by simpa using hv),
    headVolume_goodFrame]

/-- R28: a frame for a mapped head is blanked or counted, and never both. -/
theorem counted_of_not_blanked {g : Gate} {n : Nat} (h : ¬(g = .closed ∨ 2 ^ 64 ≤ n)) : g = .opened ∧ n < 2 ^ 64 := by
  obtain ⟨hg, hn⟩ := not_or.1 h
  cases g with
  | opened => exact ⟨rfl, Nat.lt_of_not_le hn⟩
  | closed => exact absurd rfl hg

theorem not_blanked_of_counted {g : Gate} {n : Nat} (h : g = .opened ∧ n < 2 ^ 64) : ¬(g = .closed ∨ 2 ^ 64 ≤ n) := by
  obtain ⟨rfl, hn⟩ := h
  exact not_or.2 ⟨Gate.noConfusion, Nat.not_le.2 hn⟩

/-! ## A discarded frame -/

theorem firing_discard_keeps (h : HeadNo) (f : FiringFrame) (s : State) :
    Keeps ([.unmappedFlags, .openSwath] ++ Foot.heard ++ Foot.settle) s (settle (discardFrame h f (goodFrame s))) :=
  ((goodFrame_keeps s).mono.trans (discardFrame_keeps h f _).mono).trans (settle_keeps _).mono

theorem discardFrame_tracker (h : HeadNo) (f : FiringFrame) (s : State) :
    (discardFrame h f s).tracker.current = s.tracker.current.map (fun w => { w with discarded := sat32 (w.discarded + 1) }) := by
  unfold discardFrame
  dsimp only
  split
  · rfl
  · rw [raise_tracker]
    rfl

/-- R29: the head's flag is set, whether it was set before or not. -/
theorem discardFrame_flags (h : HeadNo) (f : FiringFrame) (s : State) :
    (discardFrame h f s).meter.unmappedReported = upd s.meter.unmappedReported h true := by
  unfold discardFrame
  dsimp only
  split
  · next hr =>
    refine tbl_ext fun i => ?_
    rw [nth_upd]
    split
    · next e => exact e ▸ hr
    · rfl
  · rw [raise_meter]
    rfl

theorem discardFrame_queue_reported {h : HeadNo} {s : State} (hr : nth s.meter.unmappedReported h = true) (f : FiringFrame) :
    (discardFrame h f s).events.queue = s.events.queue := by
  unfold discardFrame
  dsimp only
  rw [if_pos hr]
  rfl

theorem discardFrame_queue_first {h : HeadNo} {s : State} (hr : nth s.meter.unmappedReported h = false) (f : FiringFrame) :
    (discardFrame h f s).events.queue = queueWith s .frameUnmapped (.head h) f.line.toNat := by
  unfold discardFrame
  dsimp only
  rw [if_neg (by simp [hr]), raise_queue]
  exact queueWith_congr (by rfl) (by rfl) _ _ _

/-! ## A blanked frame -/

theorem firing_blank_keeps (f : FiringFrame) (s : State) :
    Keeps ([.headOut, .openSwath] ++ Foot.heard ++ Foot.settle) s (settle (blankFrame f (goodFrame s))) :=
  ((goodFrame_keeps s).mono.trans (blankFrame_keeps f _).mono).trans (settle_keeps _).mono

theorem blankFrame_headOut (f : FiringFrame) (s : State) :
    (blankFrame f s).link.headOut = s.link.headOut ++ [(blanked f).frame] := rfl

theorem blankFrame_tracker (f : FiringFrame) (s : State) :
    (blankFrame f s).tracker.current = s.tracker.current.map (fun w => { w with blanked := sat32 (w.blanked + 1) }) := rfl

theorem blankFrame_queue (f : FiringFrame) (s : State) : (blankFrame f s).events.queue = s.events.queue := rfl

/-! ## A counted frame -/

theorem firing_count_keeps (c : ChannelNo) (f : FiringFrame) (v : Nat) (s : State) :
    Keeps (Foot.heard ++ Foot.counted ++ Foot.settle) s (settle (countFrame c f v (goodFrame s))) :=
  ((goodFrame_keeps s).mono.trans (countFrame_keeps c f v _).mono).trans (settle_keeps _).mono

theorem countFrame_headOut (c : ChannelNo) (f : FiringFrame) (v : Nat) (s : State) :
    (countFrame c f v s).link.headOut = s.link.headOut ++ [f.frame] := (addVolume_keeps c v _).get .headOut

theorem countFrame_tracker (c : ChannelNo) (f : FiringFrame) (v : Nat) (s : State) :
    (countFrame c f v s).tracker.current = s.tracker.current.map (fun w =>
      { w with unchanged := sat32 (w.unchanged + 1), volumes := upd w.volumes c (volume64 (nth w.volumes c + v)) }) :=
  (addVolume_keeps c v _).get .openSwath

theorem countFrame_counter (c : ChannelNo) (f : FiringFrame) (v : Nat) (s : State) :
    (countFrame c f v s).counter c = (addVolume c v s).counter c :=
  (addVolume_counter c v _).trans (addVolume_counter c v s).symm

theorem countFrame_counter_other {c d : ChannelNo} (f : FiringFrame) (v : Nat) (s : State) (h : d ≠ c) :
    (countFrame c f v s).counter d = s.counter d := addVolume_counter_other v _ h

theorem countFrame_consumed (c : ChannelNo) (f : FiringFrame) (v : Nat) (s : State) (i : SlotNo) :
    ((countFrame c f v s).slot i).consumed = ((addVolume c v s).slot i).consumed :=
  (addVolume_consumed c v _ i).trans (addVolume_consumed c v s i).symm

/-! ## What the end of the step leaves -/

theorem settle_headOut (s : State) : (settle s).link.headOut = s.link.headOut := (settle_keeps s).get .headOut

theorem settle_current (s : State) : (settle s).tracker.current = s.tracker.current := (settle_keeps s).get .openSwath

theorem settle_unmapped (s : State) : (settle s).meter.unmappedReported = s.meter.unmappedReported :=
  (settle_keeps s).get .unmappedFlags

theorem settle_counter (s : State) (c : ChannelNo) : (settle s).counter c = s.counter c :=
  counter_of_keeps (settle_keeps s) (by decide +kernel) c

end Sys2Proof.Machine
end

section
/-!
The conservation law of the channel counters, and the treatment of FIRING frames.
-/

namespace Sys2Proof.Machine

/-! ## The counter law (R36) -/

namespace CountersLawful

variable {s t : State}

theorem of_counters (h : CountersLawful s) (e : t.meter.counters = s.meter.counters) : CountersLawful t := fun c => by
  have hc : t.counter c = s.counter c := congrArg (nth · c) e
  exact hc ▸ h c

theorem of_keeps {fs : List Part} (h : CountersLawful s) (k : Keeps fs s t) (hf : Part.counters ∉ fs := by decide +kernel) :
    CountersLawful t := h.of_counters (k .counters hf)

theorem ite {c : Prop} [Decidable c] {u : State} (h1 : c → CountersLawful t) (h2 : ¬c → CountersLawful u) :
    CountersLawful (if c then t else u) := by
  split
  · exact h1 ‹_›
  · exact h2 ‹_›

/-- Every counter is 0 after a reset. -/
theorem of_reset (e : t.meter = State.reset.meter) : CountersLawful t := fun c => by
  have hc : t.counter c = {} := by
    unfold State.counter
    rw [e]
    exact nth_fill _ c
  rw [hc]
  exact ⟨rfl, by decide, by decide⟩

/-- R32, R33: a volume goes to the whole nanolitres debited and the remainder, with nothing lost. -/
theorem addVolume (h : CountersLawful s) {c : ChannelNo} {v : Nat} (hv : (s.counter c).metered + v < 2 ^ 64) :
    CountersLawful (addVolume c v s) := fun d => by
  by_cases e : d = c
  · subst e
    obtain ⟨hsum, -, -⟩ := h d
    have hplaced := placing_sum s d (((s.counter d).remainder + v) / 10000)
    have hdiv := Nat.div_add_mod ((s.counter d).remainder + v) 10000
    have hmod := Nat.mod_lt ((s.counter d).remainder + v) (by decide : 0 < 10000)
    rw [addVolume_counter]
    refine ⟨?_, ?_, hv⟩ <;> dsimp only <;> omega
  · rw [addVolume_counter_other v s e]
    exact h d

theorem clearCounters (h : CountersLawful s) (c : ChannelNo) : CountersLawful (clearCounters s c) := by
  refine of_keeps ?_ (reportMeter_keeps _ c)
  intro d
  unfold State.counter
  dsimp only
  rw [nth_upd]
  split
  · exact ⟨rfl, by decide, by decide⟩
  · exact h d

theorem countFrame (h : CountersLawful s) {c : ChannelNo} {v : Nat} (f : FiringFrame) (hv : (s.counter c).metered + v < 2 ^ 64) :
    CountersLawful (countFrame c f v s) :=
  (h.of_keeps ((forward_keeps _ s).mono.trans (inSwath_keeps _ _).mono : Keeps [.headOut, .openSwath] _ _)).addVolume hv

theorem meterFrame (h : CountersLawful s) (n : HeadNo) (f : FiringFrame) : CountersLawful (meterFrame n f s) := by
  cases hc : (nth s.meter.headMap n).channel with
  | none => exact meterFrame_unmapped hc f ▸ h.of_keeps (discardFrame_keeps n f s)
  | some c =>
    by_cases hg : (s.chan c).gate = .closed ∨ 2 ^ 64 ≤ (s.counter c).metered + headVolume s n f
    · exact meterFrame_blanks hc hg ▸ h.of_keeps (blankFrame_keeps f s)
    · obtain ⟨hopen, hv⟩ := counted_of_not_blanked hg
      exact meterFrame_counts hc hopen hv ▸ h.countFrame f hv

theorem firing (h : CountersLawful s) (f : FiringFrame) : CountersLawful (firing f s) := by
  have hg := h.of_keeps (goodFrame_keeps s)
  unfold Machine.firing
  dsimp only
  split
  · exact .ite (fun _ => hg) (fun _ => hg.meterFrame _ f)
  · exact hg.of_keeps (dispatchOther_keeps _ _)

theorem reply (h : CountersLawful s) (r : Request) (st : Status) (res : List Byte) : CountersLawful (r.reply st res s) :=
  h.of_keeps (reply_keeps r st res s)

theorem countersClear (h : CountersLawful s) (vs : List Nat) (r : Request) : CountersLawful (countersClear vs r s) := by
  have hclear (cs : List ChannelNo) : CountersLawful (cs.foldl Machine.clearCounters s) :=
    List.foldlRecOn cs _ h fun _ ht c _ => ht.clearCounters c
  unfold Machine.countersClear
  split
  · split
    · exact (hclear _).reply r _ _
    · exact h.reply r _ _
  · exact h

/-- R38: FULL keeps the metered total within its range. -/
theorem channelDebit (h : CountersLawful s) (vs : List Nat) (r : Request) : CountersLawful (channelDebit vs r s) := by
  have refused (st : Status) : CountersLawful (r.reply st [] s) := h.reply r st []
  unfold Machine.channelDebit
  split
  · refine .ite (fun _ => refused _) fun _ => ?_
    split
    · exact refused _
    · exact .ite (fun _ => refused _) fun _ => .ite (fun _ => refused _) fun _ => .ite (fun _ => refused _) fun hfull =>
        (h.addVolume (Nat.lt_of_not_le hfull)).reply r _ _
  · exact h

theorem serving (h : CountersLawful s) {code : Nat} {carry : Request → State → State}
    (hc : ∀ r t, CountersLawful t → CountersLawful (carry r t)) : CountersLawful (serving code carry s) := by
  unfold Machine.serving
  split
  · exact h
  · exact .ite (fun _ => hc _ _ (h.of_keeps (takeRequest_keeps _ s))) (fun _ => h)

theorem withArgs (h : CountersLawful s) {ws : List Nat} {carry : List Nat → Request → State → State} {r : Request}
    (hc : ∀ vs, CountersLawful (carry vs r s)) : CountersLawful (withArgs ws carry r s) := by
  unfold Machine.withArgs
  split
  · exact hc _
  · exact h.reply r _ _

theorem live (h : CountersLawful s) {f : State → State} (hf : CountersLawful (f s)) (hx : live f s = .next t) :
    CountersLawful t := by
  rw [live_next hx]
  exact .ite (fun _ => hf.of_keeps (settle_keeps _)) (fun _ => h)

theorem resetPart (pins : Pins) (s : State) : CountersLawful (resetPart pins s) := .of_reset rfl

theorem resetLine (h : CountersLawful s) {pins : Pins} (hx : execResetLine pins s = .next t) : CountersLawful t := by
  cases hx
  exact .ite (fun _ => .resetPart pins _) (fun _ => h)

theorem transmissionEnd (h : CountersLawful s) (pins : Pins) : CountersLawful (transmissionEnd pins s) := by
  unfold Machine.transmissionEnd
  dsimp only
  split
  · exact h
  · exact .ite (fun _ => .resetPart pins _) (fun _ => h.of_keeps (endTransmission_keeps _ s))

theorem powerLoss (h : CountersLawful s) {a b : Bool} (hx : execPowerLoss a b s = .next t) : CountersLawful t := by
  unfold execPowerLoss at hx
  split at hx
  · cases hx
    exact .of_reset rfl
  · cases hx
    exact h

end CountersLawful

theorem resets_cases {c : Instr} (h : resets c = true) :
    (∃ pins, c = .powerOn pins ∨ c = .resetLine pins ∨ c = .transmissionEnd pins) ∨ ∃ a b, c = .powerLoss a b := by
  cases c with
  | powerOn pins => exact .inl ⟨pins, .inl rfl⟩
  | resetLine pins => exact .inl ⟨pins, .inr (.inl rfl)⟩
  | transmissionEnd pins => exact .inl ⟨pins, .inr (.inr rfl)⟩
  | powerLoss a b => exact .inr ⟨a, b, rfl⟩
  | _ => cases h

/-- Resets apart, three commands move the channel counters. -/
theorem counters_mem_mayChange {c : Instr} (h : Part.counters ∈ mayChange c) :
    (∃ f, c = .firing f) ∨ c = .channelCountersClear ∨ c = .channelDebit := by
  cases c with
  | firing f => exact .inl ⟨f, rfl⟩
  | channelCountersClear => exact .inr (.inl rfl)
  | channelDebit => exact .inr (.inr rfl)
  | _ =>
    dsimp only [mayChange] at h
    exact absurd h (by decide +kernel)

theorem exec_keeps_countersLawful {c : Instr} {s t : State} (h : CountersLawful s) (hx : exec c s = .next t) : CountersLawful t := by
  cases hr : resets c with
  | true =>
    rcases resets_cases hr with ⟨pins, rfl | rfl | rfl⟩ | ⟨a, b, rfl⟩
    · cases hx
      exact .resetPart pins s
    · exact h.resetLine hx
    · exact h.live (h.transmissionEnd pins) hx
    · exact h.powerLoss hx
  | false =>
    by_cases hm : Part.counters ∈ mayChange c
    · rcases counters_mem_mayChange hm with ⟨f, rfl⟩ | rfl | rfl
      · exact h.live (h.firing f) hx
      · exact h.live (h.serving fun r _ ht => ht.withArgs fun vs => ht.countersClear vs r) hx
      · exact h.live (h.serving fun r _ ht => ht.withArgs fun vs => ht.channelDebit vs r) hx
    · exact h.of_keeps (exec_keeps c s t hr hx) hm

/-- Settles O54: a step idles, or runs a command, and every command keeps the law. -/
theorem stepsKeepTheCounterLaw : Obligations.StepsKeepTheCounterLaw := by
  unfold Obligations.StepsKeepTheCounterLaw
  intro s t h hx
  unfold step at hx
  split at hx
  · cases hx
    exact h
  · next c rest _ => exact exec_keeps_countersLawful (s := { s with pending := rest }) (h.of_counters rfl) hx

/-! ## FIRING frames -/

/-- Settles O9: the treatment by map entry and gate. -/
theorem firingTreatment : Obligations.FiringTreatment := by
  unfold Obligations.FiringTreatment
  intro s f h hp ha hm
  cases hc : (nth s.meter.headMap h).channel with
  | none =>
    have hk := firing_discard_keeps h f s
    exact ⟨_, exec_firing_unmapped hp ha hm hc, hk.get .headOut, hk.get .counters, hk.get .consumed⟩
  | some c =>
    by_cases hg : (s.chan c).gate = .closed ∨ 2 ^ 64 ≤ (s.counter c).metered + headVolume s h f
    · have hk := firing_blank_keeps f s
      refine ⟨_, exec_firing_blanked hp ha hm hc hg, fun _ => ⟨?_, hk.get .counters, hk.get .consumed⟩, fun hcounts => ?_⟩
      · rw [settle_headOut, blankFrame_headOut, goodFrame_headOut]
        rfl
      · exact absurd hg (not_blanked_of_counted hcounts)
    · obtain ⟨hopen, hv⟩ := counted_of_not_blanked hg
      refine ⟨_, exec_firing_counted hp ha hm hc hopen hv, fun hblanks => absurd hblanks hg, fun _ => ⟨?_, ?_, fun d hd => ?_⟩⟩
      · rw [settle_headOut, countFrame_headOut, goodFrame_headOut]
      · rw [settle_counter, countFrame_counter, addVolume_counter, goodFrame_counter]
        rfl
      · rw [settle_counter, countFrame_counter_other f _ _ hd, goodFrame_counter]

/-- Settles O10: frames that are discarded, blanked, or dropped in STANDBY. -/
theorem uncountedFiringFrames : Obligations.UncountedFiringFrames := by
  unfold Obligations.UncountedFiringFrames
  refine ⟨fun s f h hp ha hm hc => ?_, fun s f h c hp ha hm hc hg => ?_, fun s f hp ha hm => ?_⟩
  · refine ⟨_, exec_firing_unmapped hp ha hm hc, ?_, fun hr => ?_, fun hr => ?_, ?_, firing_discard_keeps h f s⟩
    · rw [settle_current, discardFrame_tracker, goodFrame_tracker]
      rfl
    · rw [settle_queue, discardFrame_queue_reported (by simpa using hr)]
    · rw [settle_queue, discardFrame_queue_first (by simpa using hr)]
    · rw [settle_unmapped, discardFrame_flags, goodFrame_meter]
  · refine ⟨_, exec_firing_blanked hp ha hm hc hg, ?_, ?_, ?_, firing_blank_keeps f s⟩
    · rw [settle_headOut, blankFrame_headOut, goodFrame_headOut]
      rfl
    · rw [settle_current, blankFrame_tracker, goodFrame_tracker]
      rfl
    · rw [settle_queue, blankFrame_queue]
  · exact ⟨_, exec_firing_standby hp ha hm, settle_queue _, (goodFrame_keeps s).mono.trans (settle_keeps _).mono⟩

/-- R33: what is not charged to the slot is unattributed. -/
theorem placing_unchargeable {s : State} {c : ChannelNo} {a : SlotNo} (ha : (s.chan c).active = some a)
    (hs : (s.slot a).chargeable = false) (d : Nat) : placing s c d = { taken := 0, overdraw := 0, unattributed := d } := by
  simp [placing, ha, hs]

/-- R33: a slot that is charged gives what it has, and the rest is overdraw. -/
theorem placing_chargeable {s : State} {c : ChannelNo} {a : SlotNo} (ha : (s.chan c).active = some a)
    (hs : (s.slot a).chargeable = true) (d : Nat) :
    placing s c d =
      { taken := min d (s.slot a).remaining, overdraw := d - min d (s.slot a).remaining, unattributed := 0 } := by
  simp [placing, ha, hs]

/-- R33: states in which nothing is charged, with REJECTED and FAULTED without a history entry. -/
theorem unchargeable_of_state {sl : Slot}
    (h : sl.state ∈ [SlotState.empty, .settling, .identifying, .challenging .first] ∨
      (((∃ r, sl.state = .rejected r) ∨ ∃ r, sl.state = .faulted r) ∧ sl.lastAuth = none)) : sl.chargeable = false := by
  simp only [List.mem_cons, List.not_mem_nil, or_false] at h
  rcases h with (h | h | h | h) | ⟨⟨r, h⟩ | ⟨r, h⟩, hl⟩
  all_goals simp [Slot.chargeable, Slot.holds, SlotState.inService, SlotState.rechallenging, *]

/-- R33: states in which the slot is charged, with REJECTED and FAULTED that hold their history entry. -/
theorem chargeable_of_state {sl : Slot}
    (h : sl.state ∈ [SlotState.genuine, .suspect, .depleted] ∨ (∃ r, sl.state = .challenging (.rechallenge r)) ∨
      (∃ r, sl.state = .challenging (.wake r)) ∨
      (((∃ r, sl.state = .rejected r) ∨ ∃ r, sl.state = .faulted r) ∧ sl.lastAuth ≠ none)) : sl.chargeable = true := by
  simp only [List.mem_cons, List.not_mem_nil, or_false] at h
  rcases h with (h | h | h) | ⟨r, h⟩ | ⟨r, h⟩ | ⟨⟨r, h⟩ | ⟨r, h⟩, hl⟩
  all_goals simp [Slot.chargeable, Slot.holds, SlotState.inService, SlotState.rechallenging, Option.isSome_iff_ne_none, *]

/-- Settles O11: a counted frame's volume, and the placing of a debit. -/
theorem countedFiringFrames : Obligations.CountedFiringFrames := by
  unfold Obligations.CountedFiringFrames
  constructor
  · intro s f h c hp ha hm hc hg v k p hv
    refine ⟨_, exec_firing_counted hp ha hm hc hg hv, ?_, fun i => ?_, fun hw => ?_, fun w hw hsum => ?_, firing_count_keeps c f _ s⟩
    · rw [settle_counter, countFrame_counter, addVolume_counter, goodFrame_counter, placing_goodFrame]
      rfl
    · rw [settle_slot, countFrame_consumed, addVolume_consumed, goodFrame_slot, goodFrame_chan, goodFrame_counter, placing_goodFrame]
      rfl
    · rw [settle_current, countFrame_tracker, goodFrame_tracker, hw]
      rfl
    · have hin : volume64 (nth w.volumes c + headVolume s h f) = nth w.volumes c + v := if_pos hsum
      rw [settle_current, countFrame_tracker, goodFrame_tracker, hw, Option.map_some, hin]
      rfl
  · intro s c d
    refine ⟨fun hn => by simp [placing, hn], fun a hact => ⟨fun hs => ?_, fun hs => ?_⟩⟩
    · exact placing_unchargeable hact (unchargeable_of_state hs) d
    · exact placing_chargeable hact (chargeable_of_state hs) d

end Sys2Proof.Machine
end

section
/-!
SUPPORT. One equation per case of the requests on counters, the head map, the volume table, the swath time limit and the test write arm
(R22, R25, R37, R38, R53, R125), and what each write leaves in the records.
-/

namespace Sys2Proof.Machine

/-! ## CHANNEL COUNTERS CLEAR (R37) -/

/-- What the drop meter holds of a channel: its counters and its two reporting flags. -/
def meterRow (m : Meter) (c : ChannelNo) : Counters × Bool × Bool :=
  (nth m.counters c, nth m.overdrawReported c, nth m.unattributedReported c)

theorem meterRow_eq_iff {s : State} {c : ChannelNo} {k : Counters} {a b : Bool} :
    meterRow s.meter c = (k, a, b) ↔
      s.counter c = k ∧ nth s.meter.overdrawReported c = a ∧ nth s.meter.unattributedReported c = b := by
  simp only [meterRow, State.counter, Prod.mk.injEq]

theorem meterRow_of_keeps {fs : List Part} {s t : State} (h : Keeps fs s t) (hc : Part.counters ∉ fs := by decide +kernel)
    (hf : Part.debitFlags ∉ fs := by decide +kernel) (c : ChannelNo) : meterRow t.meter c = meterRow s.meter c := by
  have hcounters : t.meter.counters = s.meter.counters := h _ hc
  obtain ⟨hover, hun⟩ : t.meter.overdrawReported = s.meter.overdrawReported ∧
    t.meter.unattributedReported = s.meter.unattributedReported := h _ hf
  simp only [meterRow, hcounters, hover, hun]

theorem clearCounters_row (s : State) (c d : ChannelNo) :
    meterRow (clearCounters s c).meter d = if c = d then ({}, false, false) else meterRow s.meter d := by
  unfold clearCounters
  rw [meterRow_of_keeps (reportMeter_keeps _ c) (by decide +kernel) (by decide +kernel)]
  simp only [meterRow, nth_upd]
  split <;> rfl

theorem clearCounters_foldl_row (cs : List ChannelNo) (s : State) (d : ChannelNo) :
    meterRow (cs.foldl clearCounters s).meter d = if d ∈ cs then ({}, false, false) else meterRow s.meter d := by
  induction cs generalizing s with
  | nil => rfl
  | cons c cs ih =>
    rw [List.foldl_cons, ih, clearCounters_row]
    by_cases hd : d ∈ cs
    · simp [hd]
    · by_cases hc : c = d
      · simp [hc]
      · simp [hd, hc, Ne.symm hc]

/-- R37: a channel number names its channel, and FFh all of them. -/
theorem asMembers_mem {n v : Nat} (h : v < n ∨ v = 255) :
    ∃ is : List (Fin n), asMembers n v = some is ∧ ∀ i : Fin n, i ∈ is ↔ v = 255 ∨ v = i.val := by
  unfold asMembers
  by_cases hv : v = 255
  · exact ⟨List.finRange n, if_pos hv, fun i => by simp [hv]⟩
  · have hlt : v < n := h.resolve_right hv
    refine ⟨[⟨v, hlt⟩], ?_, fun i => ?_⟩
    · rw [if_neg hv, asFin_of_val (i := (⟨v, hlt⟩ : Fin n)) rfl, Option.map_some]
    · simp [hv, Fin.ext_iff, eq_comm]

theorem countersClear_named {v : Nat} {cs : List ChannelNo} (h : asMembers 8 v = some cs) (r : Request) (s : State) :
    countersClear [v] r s = r.reply .done [] (cs.foldl clearCounters s) := by
  simp only [countersClear, h]

theorem countersClear_unnamed {v : Nat} (h : 8 ≤ v) (hall : v ≠ 255) (r : Request) (s : State) :
    countersClear [v] r s = r.reply .badArgument [] s := by
  simp [countersClear, asMembers, hall, asFin_eq_none h]

/-! ## CHANNEL DEBIT (R38) -/

section ChannelDebit
variable {s : State} {c : ChannelNo} {amount : Nat} (r : Request)

theorem channelDebit_out_of_range {n : Nat} (hm : s.mgmt.mode ≠ .standby) (h : 8 ≤ n ∨ amount = 0 ∨ 1000000 < amount) :
    channelDebit [n, amount] r s = r.reply .badArgument [] s := by
  unfold channelDebit
  dsimp only
  rw [if_neg hm]
  split
  · rfl
  · next c hc =>
    have hn := lt_of_asFin hc
    exact if_pos (by omega)

theorem channelDebit_unused (hm : s.mgmt.mode ≠ .standby) (hlo : 1 ≤ amount) (hhi : amount ≤ 1000000)
    (hu : (s.chan c).state = .unused) : channelDebit [c.val, amount] r s = r.reply .badState [] s := by
  simp only [channelDebit, asFin_of_val (rfl : c.val = c.val)]
  rw [if_neg hm, if_neg (by omega), if_pos hu]

theorem channelDebit_full (hm : s.mgmt.mode ≠ .standby) (hlo : 1 ≤ amount) (hhi : amount ≤ 1000000)
    (hu : (s.chan c).state ≠ .unused) (hf : 2 ^ 64 ≤ (s.counter c).metered + amount * 10000) :
    channelDebit [c.val, amount] r s = r.reply .full [] s := by
  simp only [channelDebit, asFin_of_val (rfl : c.val = c.val)]
  rw [if_neg hm, if_neg (by omega), if_neg hu, if_pos hf]

theorem channelDebit_done (hm : s.mgmt.mode ≠ .standby) (hlo : 1 ≤ amount) (hhi : amount ≤ 1000000)
    (hu : (s.chan c).state ≠ .unused) (hf : (s.counter c).metered + amount * 10000 < 2 ^ 64) :
    channelDebit [c.val, amount] r s =
      r.reply .done (be 4 (placing s c amount).taken ++ be 4 (placing s c amount).overdraw ++ be 4 (placing s c amount).unattributed)
        (addVolume c (amount * 10000) s) := by
  simp only [channelDebit, asFin_of_val (rfl : c.val = c.val)]
  rw [if_neg hm, if_neg (by omega), if_neg hu, if_neg (Nat.not_le.2 hf)]

end ChannelDebit

/-- R30, R38: whole nanolitres leave a remainder below one nanolitre as it is. -/
theorem whole_nanolitres {k : Nat} (h : k ≤ 9999) (n : Nat) : (k + n * 10000) / 10000 = n ∧ (k + n * 10000) % 10000 = k := by
  omega

/-! ## HEAD MAP WRITE (R22) -/

theorem asMapEntry_none {c v : Nat} (h : (8 ≤ c ∧ c ≠ 255) ∨ 8 ≤ v) : asMapEntry c v = none := by
  unfold asMapEntry
  split
  · rfl
  · next set hset =>
    obtain ⟨hc, hne⟩ := h.resolve_right (Nat.not_le.2 (lt_of_asFin hset))
    rw [if_neg hne, asFin_eq_none hc, Option.map_none]

theorem asMappings_cons {c v : Byte} {rest : List Byte} {es : List MapEntry} (h : asMappings (c :: v :: rest) = some es) :
    ∃ x xs, es = x :: xs ∧ asMapEntry c.toNat v.toNat = some x ∧ asMappings rest = some xs := by
  rw [asMappings] at h
  split at h
  · next x xs hx hxs => exact ⟨x, xs, (Option.some.inj h).symm, hx, hxs⟩
  · cases h

/-- A mapping is two bytes. -/
theorem asMappings_length : ∀ (bytes : List Byte) (es : List MapEntry), asMappings bytes = some es → bytes.length = 2 * es.length
  | [], _, rfl => rfl
  | [_], _, h => nomatch h
  | _ :: _ :: rest, _, h => by
    obtain ⟨x, xs, rfl, -, hxs⟩ := asMappings_cons h
    have hlen := asMappings_length rest xs hxs
    simp only [List.length_cons]
    omega

/-- One mapping out of range spoils the list. -/
theorem asMappings_none : ∀ (bytes : List Byte) (j : Nat) (c v : Byte), bytes[2 * j]? = some c → bytes[2 * j + 1]? = some v →
    (8 ≤ c.toNat ∧ c ≠ 0xFF#8) ∨ 8 ≤ v.toNat → asMappings bytes = none
  | [], _, _, _, hc, _, _ => nomatch hc
  | [_], _, _, _, _, _, _ => rfl
  | a :: b :: rest, j, c, v, hc, hv, hbad => by
    by_contra hsome
    obtain ⟨es, hes⟩ := Option.ne_none_iff_exists'.1 hsome
    obtain ⟨x, xs, -, hx, hxs⟩ := asMappings_cons hes
    cases j with
    | zero =>
      obtain rfl : a = c := by simpa using hc
      obtain rfl : b = v := by simpa using hv
      rw [asMapEntry_none (hbad.imp_left (And.imp_right byte_ne_all))] at hx
      cases hx
    | succ j =>
      rw [asMappings_none rest j c v hc hv hbad] at hxs
      cases hxs

theorem headMapWrite_done {s : State} {r : Request} {first n : Nat} {bytes : List Byte} {es : List MapEntry}
    (ha : headMapArgs r.args = some (first, n, bytes)) (hm : s.mgmt.mode = .setup) (hn : 1 ≤ n) (hr : first + n ≤ 32)
    (he : asMappings bytes = some es) : headMapWrite r s = r.reply .done [] (writeMap first es s) := by
  simp only [headMapWrite, ha, he]
  rw [if_neg (not_not.2 hm), if_neg (by omega)]

theorem headMapWrite_bad {s : State} {r : Request} {first n : Nat} {bytes : List Byte}
    (ha : headMapArgs r.args = some (first, n, bytes)) (hm : s.mgmt.mode = .setup)
    (hbad : (32 ≤ first ∨ n = 0 ∨ 32 < first + n) ∨ asMappings bytes = none) :
    headMapWrite r s = r.reply .badArgument [] s := by
  simp only [headMapWrite, ha]
  rw [if_neg (not_not.2 hm)]
  split
  · rfl
  · next hr => rw [hbad.resolve_left hr]

/-- The list of a HEAD MAP WRITE has two bytes for each mapping that its count names. -/
theorem headMapArgs_length {args bytes : List Byte} {first n : Nat} (h : headMapArgs args = some (first, n, bytes)) :
    bytes.length = 2 * n := by
  unfold headMapArgs at h
  split at h
  · split at h
    · next hlen =>
      cases h
      exact hlen
    · cases h
  · cases h

/-- A head's entry of the head map with its unmapped-reported flag. -/
def mapRow (m : Meter) (h : HeadNo) : MapEntry × Bool := (nth m.headMap h, nth m.unmappedReported h)

theorem mapRow_of_keeps {fs : List Part} {s t : State} (k : Keeps fs s t) (hm : Part.headMap ∉ fs := by decide +kernel)
    (hf : Part.unmappedFlags ∉ fs := by decide +kernel) (h : HeadNo) : mapRow t.meter h = mapRow s.meter h := by
  have hmap : t.meter.headMap = s.meter.headMap := k _ hm
  have hflags : t.meter.unmappedReported = s.meter.unmappedReported := k _ hf
  simp only [mapRow, hmap, hflags]

theorem writeMapEntry_row (g h : HeadNo) (e : MapEntry) (s : State) :
    mapRow (writeMapEntry g e s).meter h = if g = h then (e, false) else mapRow s.meter h := by
  simp only [mapRow, writeMapEntry, nth_upd]
  split <;> rfl

/-- R22: the heads from `first` take the entries in order, and their flags are cleared; the other heads keep theirs. -/
theorem writeMap_row (es : List MapEntry) (first : Nat) (s : State) (h : HeadNo) :
    mapRow (writeMap first es s).meter h =
      if first ≤ h.val then (es[h.val - first]?).elim (mapRow s.meter h) (·, false) else mapRow s.meter h := by
  induction es generalizing first s with
  | nil => simp [writeMap]
  | cons e es ih =>
    unfold writeMap
    by_cases hf : first < 32
    · rw [asFin_of_val (i := (⟨first, hf⟩ : HeadNo)) rfl]
      dsimp only
      rw [ih, writeMapEntry_row]
      rcases Nat.lt_trichotomy first h.val with hlt | heq | hgt
      · have hsub : h.val - first = h.val - (first + 1) + 1 := by omega
        have hne : (⟨first, hf⟩ : HeadNo) ≠ h := fun e => hlt.ne (congrArg Fin.val e)
        rw [if_pos (Nat.succ_le_of_lt hlt), if_pos hlt.le, hsub, List.getElem?_cons_succ, if_neg hne]
      · rw [if_neg (by omega), if_pos heq.le, if_pos (Fin.ext heq), ← heq, Nat.sub_self, List.getElem?_cons_zero]
        rfl
      · have hne : (⟨first, hf⟩ : HeadNo) ≠ h := fun e => hgt.ne (congrArg Fin.val e).symm
        rw [if_neg (by omega), if_neg hne, if_neg (by omega)]
    · rw [asFin_eq_none (Nat.not_lt.1 hf), if_neg (by omega)]

/-! ## VOLUME WRITE (R25) -/

theorem volumeWrite_done {s : State} {r : Request} {v : SetNo} {w : WaveNo} {small medium large : Nat}
    (hm : s.mgmt.mode ≠ .standby) (hs : small ≤ 4095) (hmd : medium ≤ 4095) (hl : large ≤ 4095) :
    volumeWrite [v.val, w.val, small, medium, large] r s =
      r.reply .done (encFlag (writeVolumes v w { small, medium, large } s).meter.stagedPending)
        (writeVolumes v w { small, medium, large } s) := by
  simp only [volumeWrite, asFin_of_val (rfl : v.val = v.val), asFin_of_val (rfl : w.val = w.val)]
  rw [if_neg hm, if_pos ⟨hs, hmd, hl⟩]

theorem volumeWrite_bad {s : State} {r : Request} {v w small medium large : Nat} (hm : s.mgmt.mode ≠ .standby)
    (hbad : 8 ≤ v ∨ 4 ≤ w ∨ 4095 < small ∨ 4095 < medium ∨ 4095 < large) :
    volumeWrite [v, w, small, medium, large] r s = r.reply .badArgument [] s := by
  unfold volumeWrite
  dsimp only
  rw [if_neg hm]
  split
  · next v' w' hv hw =>
    have hv8 := lt_of_asFin hv
    have hw4 := lt_of_asFin hw
    exact if_neg (by omega)
  · rfl

theorem writeVolumes_staged (v : SetNo) (w : WaveNo) (x : Volumes) (s : State) :
    (writeVolumes v w x s).meter.staged = upd s.meter.staged v (upd (nth s.meter.staged v) w x) := by
  unfold writeVolumes
  dsimp only
  split <;> rfl

theorem nth_writeVolumes_same (v : SetNo) (w : WaveNo) (x : Volumes) (s : State) :
    nth (nth (writeVolumes v w x s).meter.staged v) w = x := by
  simp [writeVolumes_staged]

theorem nth_writeVolumes_other {v v' : SetNo} {w w' : WaveNo} (h : ¬(v' = v ∧ w' = w)) (x : Volumes) (s : State) :
    nth (nth (writeVolumes v w x s).meter.staged v') w' = nth (nth s.meter.staged v') w' := by
  rw [writeVolumes_staged, nth_upd]
  split
  · next e =>
    subst e
    exact nth_upd_ne _ _ fun e => h ⟨rfl, e.symm⟩
  · rfl

theorem swathOpen_of_none {s : State} (h : s.tracker.current = none) : s.swathOpen = false := by simp [State.swathOpen, h]

theorem swathOpen_of_ne_none {s : State} (h : s.tracker.current ≠ none) : s.swathOpen = true := by
  simpa [State.swathOpen, Option.isSome_iff_ne_none] using h

theorem writeVolumes_idle {s : State} (h : s.tracker.current = none) (v : SetNo) (w : WaveNo) (x : Volumes) :
    (writeVolumes v w x s).meter.active = (writeVolumes v w x s).meter.staged ∧
      (writeVolumes v w x s).meter.stagedPending = s.meter.stagedPending := by
  simp [writeVolumes, swathOpen_of_none h]

theorem writeVolumes_open {s : State} (h : s.tracker.current ≠ none) (v : SetNo) (w : WaveNo) (x : Volumes) :
    (writeVolumes v w x s).meter.active = s.meter.active ∧ (writeVolumes v w x s).meter.stagedPending = true := by
  simp [writeVolumes, swathOpen_of_ne_none h]

theorem encFlag_eq (b : Bool) : encFlag b = [if b then 1#8 else 0#8] := by
  cases b <;> rfl

/-! ## SWATH LIMIT WRITE (R53) -/

theorem swathLimitWrite_done {s : State} {n : Nat} (hm : s.mgmt.mode ≠ .standby) (hn : n = 0 ∨ (10 ≤ n ∧ n ≤ 60000)) (r : Request) :
    swathLimitWrite [n] r s =
      r.reply .done (be 2 (writeSwathLimit n s).tracker.limit ++ encOpt (be 2) (writeSwathLimit n s).tracker.heldLimit)
        (writeSwathLimit n s) := by
  unfold swathLimitWrite
  dsimp only
  rw [if_neg hm, if_pos hn]

theorem swathLimitWrite_bad {s : State} {n : Nat} (hm : s.mgmt.mode ≠ .standby) (hn : (1 ≤ n ∧ n ≤ 9) ∨ 60000 < n) (r : Request) :
    swathLimitWrite [n] r s = r.reply .badArgument [] s := by
  unfold swathLimitWrite
  dsimp only
  rw [if_neg hm, if_neg (by omega)]

theorem writeSwathLimit_idle {s : State} (h : s.tracker.current = none) (n : Nat) :
    writeSwathLimit n s = { s with tracker := { s.tracker with limit := n } } := by
  simp [writeSwathLimit, swathOpen_of_none h]

theorem writeSwathLimit_open {s : State} (h : s.tracker.current ≠ none) (n : Nat) :
    writeSwathLimit n s = { s with tracker := { s.tracker with heldLimit := some n } } := by
  simp [writeSwathLimit, swathOpen_of_ne_none h]

/-! ## TEST WRITE ARM (R125) -/

theorem testWriteArm_done {s : State} {n : Nat} {arm : Option SlotNo} (hm : s.mgmt.mode = .setup) (hn : asSlotOrNone n = some arm)
    (r : Request) : testWriteArm [n] r s = r.reply .done (encOpt encSlot s.testArm) { s with testArm := arm } := by
  simp only [testWriteArm, hn]
  rw [if_neg (not_not.2 hm)]

theorem testWriteArm_bad {s : State} {n : Nat} (hm : s.mgmt.mode = .setup) (hn : 16 ≤ n) (hne : n ≠ 255) (r : Request) :
    testWriteArm [n] r s = r.reply .badArgument [] s := by
  simp [testWriteArm, hm, asSlotOrNone, hne, asFin_eq_none hn]

end Sys2Proof.Machine
end

section
/-!
The requests on counters and on the drop meter's tables.
-/

namespace Sys2Proof.Machine

/-! ## Counters (R37, R38) -/

theorem countersClear_request {s : State} {tag b : Byte} {rest : List Request}
    (hs : Serves s { tag, kind := 8#16, args := [b] } rest) (hb : b.toNat < 8 ∨ b = 0xFF#8) :
    ∃ t, exec .channelCountersClear s = .next t ∧
      (∀ c : ChannelNo, b = 0xFF#8 ∨ b.toNat = c.val → meterRow t.meter c = ({}, false, false)) ∧
      (∀ c : ChannelNo, ¬(b = 0xFF#8 ∨ b.toNat = c.val) → meterRow t.meter c = meterRow s.meter c) ∧
      lastAnswer t tag 8#16 .done [] := by
  have hall : b = 0xFF#8 ↔ b.toNat = 255 := ⟨fun e => e ▸ rfl, fun e => BitVec.eq_of_toNat_eq e⟩
  obtain ⟨cs, hcs, hmem⟩ := asMembers_mem (hb.imp_right hall.1)
  have hrow : ∀ c, meterRow (settle ((⟨tag, 8#16, [b]⟩ : Request).reply .done [] (cs.foldl clearCounters (takeRequest rest s)))).meter c =
      if c ∈ cs then ({}, false, false) else meterRow s.meter c := by
    intro c
    rw [meterRow_of_keeps (settle_keeps _) (by decide +kernel) (by decide +kernel)]
    exact clearCounters_foldl_row cs _ c
  refine ⟨_, ?_, fun c hc => (hrow c).trans (if_pos ?_), fun c hc => (hrow c).trans (if_neg ?_), ?_⟩
  · have hx := live_served (withArgs [1] countersClear) hs rfl
    rw [withArgs_fit _ _ (fields_byte b), countersClear_named hcs] at hx
    exact hx
  · exact (hmem c).2 (hc.imp_left hall.1)
  · exact fun h => hc (((hmem c).1 h).imp_left hall.2)
  · exact lastAnswer_settle.2 (lastAnswer_reply _ _ _ _ _ _)

theorem channelDebit_request {s : State} {tag : Byte} {args : List Byte} {rest : List Request} {c : ChannelNo} {amount : Nat}
    (hs : Serves s { tag, kind := 9#16, args } rest) (ha : fields [1, 4] args = some [c.val, amount]) (hm : s.mgmt.mode ≠ .standby)
    (hlo : 1 ≤ amount) (hhi : amount ≤ 1000000) (hu : (s.chan c).state ≠ .unused)
    (hf : (s.counter c).metered + amount * 10000 < 2 ^ 64) :
    exec .channelDebit s = .next (settle ((⟨tag, 9#16, args⟩ : Request).reply .done
      (be 4 (placing s c amount).taken ++ be 4 (placing s c amount).overdraw ++ be 4 (placing s c amount).unattributed)
      (addVolume c (amount * 10000) (takeRequest rest s)))) := by
  have hx := live_served (withArgs [1, 4] channelDebit) hs rfl
  rw [withArgs_fit _ _ ha, channelDebit_done (s := takeRequest rest s) _ hm hlo hhi hu hf] at hx
  exact hx

/-- Settles O43: CHANNEL COUNTERS CLEAR and CHANNEL DEBIT. -/
theorem counterRequests : Obligations.CounterRequests := by
  unfold Obligations.CounterRequests
  refine ⟨?_, ?_, ?_, ?_⟩
  · intro s tag b rest hs hb
    obtain ⟨t, hx, hnamed, hother, hans⟩ := countersClear_request hs hb
    refine ⟨t, hx, fun c hc => ?_, fun c hc => ?_, hans, exec_keeps _ s t rfl hx⟩
    · exact meterRow_eq_iff.1 (hnamed c hc)
    · exact meterRow_eq_iff.1 (hother c hc)
  · intro s tag args rest c amount hs ha hm hlo hhi hu hf hrem k p
    have hx := channelDebit_request hs ha hm hlo hhi hu hf
    obtain ⟨hdiv, hmod⟩ := whole_nanolitres hrem amount
    refine ⟨_, hx, ?_, fun d hd => ?_, fun i => ?_, ?_, exec_keeps _ s _ rfl hx⟩
    · rw [settle_counter]
      refine (addVolume_counter c _ (takeRequest rest s)).trans ?_
      have hc : (takeRequest rest s).counter c = s.counter c := rfl
      rw [hc, hdiv, hmod]
      rfl
    · rw [settle_counter]
      exact addVolume_counter_other _ (takeRequest rest s) hd
    · rw [settle_slot]
      refine (addVolume_consumed c _ (takeRequest rest s) i).trans ?_
      have hc : (takeRequest rest s).counter c = s.counter c := rfl
      rw [hc, hdiv]
      rfl
    · exact lastAnswer_settle.2 (lastAnswer_reply _ _ _ _ _ _)
  · intro s b hb hall
    refine carries_of_live (carry := withArgs [1] countersClear) rfl rfl rfl fun tag rest => ?_
    rw [withArgs_fit _ _ (fields_byte b), countersClear_unnamed hb (byte_ne_all hall)]
  · intro s args c amount ha hm
    refine ⟨fun hbad => ?_, fun ch hch hlo hhi => ⟨fun hu => ?_, fun hu hf => ?_⟩⟩
    all_goals refine carries_of_live (carry := withArgs [1, 4] channelDebit) rfl rfl rfl fun tag rest => ?_
    all_goals rw [withArgs_fit _ _ ha]
    · exact channelDebit_out_of_range (s := takeRequest rest s) _ hm hbad
    · exact hch ▸ channelDebit_unused (s := takeRequest rest s) _ hm hlo hhi hu
    · exact hch ▸ channelDebit_full (s := takeRequest rest s) _ hm hlo hhi hu hf

/-! ## Tables (R22, R25, R53, R125) -/

theorem headMapWrite_request {s : State} {tag : Byte} {args bytes : List Byte} {rest : List Request} {first n : Nat}
    {es : List MapEntry} (hs : Serves s { tag, kind := 4#16, args } rest) (ha : headMapArgs args = some (first, n, bytes))
    (he : asMappings bytes = some es) (hm : s.mgmt.mode = .setup) (hn : 1 ≤ n) (hr : first + n ≤ 32) :
    ∃ t, exec .headMapWrite s = .next t ∧
      (∀ h : HeadNo, mapRow t.meter h =
        if first ≤ h.val then (es[h.val - first]?).elim (mapRow s.meter h) (·, false) else mapRow s.meter h) ∧
      lastAnswer t tag 4#16 .done [] := by
  have hx := quiet_served headMapWrite hs rfl
  rw [headMapWrite_done (s := takeRequest rest s) ha hm hn hr he] at hx
  refine ⟨_, hx, fun h => ?_, ?_⟩
  · rw [mapRow_of_keeps (kickLane_keeps _) (by decide +kernel) (by decide +kernel)]
    exact writeMap_row es first (takeRequest rest s) h
  · exact lastAnswer_kickLane.2 (lastAnswer_reply _ _ _ _ _ _)

theorem volumeWrite_request {s : State} {tag : Byte} {args : List Byte} {rest : List Request} {v : SetNo} {w : WaveNo}
    {small medium large : Nat} (hs : Serves s { tag, kind := 6#16, args } rest)
    (ha : fields [1, 1, 2, 2, 2] args = some [v.val, w.val, small, medium, large]) (hm : s.mgmt.mode ≠ .standby)
    (hsm : small ≤ 4095) (hmd : medium ≤ 4095) (hl : large ≤ 4095) :
    ∃ t, exec .volumeWrite s = .next t ∧
      t.meter = (writeVolumes v w { small, medium, large } (takeRequest rest s)).meter ∧
      lastAnswer t tag 6#16 .done [if t.meter.stagedPending then 1#8 else 0#8] := by
  have hx := quiet_served (withArgs [1, 1, 2, 2, 2] volumeWrite) hs rfl
  rw [withArgs_fit _ _ ha, volumeWrite_done (s := takeRequest rest s) hm hsm hmd hl, encFlag_eq] at hx
  exact ⟨_, hx, rfl, lastAnswer_kickLane.2 (lastAnswer_reply _ _ _ _ _ _)⟩

theorem testWriteArm_carries {s : State} {b : Byte} {arm : Option SlotNo} (hm : s.mgmt.mode = .setup)
    (hb : asSlotOrNone b.toNat = some arm) :
    Carries .testWriteArm 22#16 [b] .done (encOpt encSlot s.testArm) s { s with testArm := arm } := by
  refine carries_of_quiet (carry := withArgs [1] testWriteArm) rfl rfl rfl fun tag rest => ?_
  rw [withArgs_fit _ _ (fields_byte b), testWriteArm_done (s := takeRequest rest s) hm hb]
  rfl

theorem asSlotOrNone_slot (i : SlotNo) : asSlotOrNone (BitVec.ofNat 8 i.val).toNat = some (some i) := by
  have hi : (BitVec.ofNat 8 i.val).toNat = i.val := by
    rw [BitVec.toNat_ofNat]
    omega
  unfold asSlotOrNone
  rw [hi, if_neg (by omega), asFin_of_val rfl, Option.map_some]

/-- Settles O44: the writes of the head map, the volume table, the swath time limit and the test write arm. -/
theorem tableWrites : Obligations.TableWrites := by
  unfold Obligations.TableWrites
  refine ⟨?_, ?_, ?_, ?_, ?_, ?_, ?_, ?_⟩
  · intro s tag args bytes rest first n es hs ha he hm hn hr
    obtain ⟨t, hx, hrow, hans⟩ := headMapWrite_request hs ha he hm hn hr
    have hlen : es.length = n := by
      have hb := headMapArgs_length ha
      rw [asMappings_length bytes es he] at hb
      omega
    refine ⟨t, hx, fun h e hf hget => ?_, fun h hout => ?_, hans, exec_keeps _ s t rfl hx⟩
    · have hwritten := hrow h
      rw [if_pos hf, hget] at hwritten
      simpa only [mapRow, Option.elim_some, Prod.mk.injEq] using hwritten
    · have hkept : mapRow t.meter h = mapRow s.meter h := by
        rw [hrow h]
        split
        · rw [List.getElem?_eq_none (by omega), Option.elim_none]
        · rfl
      simpa only [mapRow, Prod.mk.injEq] using hkept
  · intro s args bytes first n ha hm hbad
    refine carries_of_quiet (carry := headMapWrite) rfl rfl rfl fun tag rest => ?_
    refine headMapWrite_bad (s := takeRequest rest s) ha hm ?_
    rcases hbad with h | h | h | ⟨j, c, v, hc, hv, hcv⟩
    · exact .inl (.inl h)
    · exact .inl (.inr (.inl h))
    · exact .inl (.inr (.inr h))
    · exact .inr (asMappings_none bytes j c v hc hv hcv)
  · intro s args v w small medium large ha hm hbad
    refine carries_of_quiet (carry := withArgs [1, 1, 2, 2, 2] volumeWrite) rfl rfl rfl fun tag rest => ?_
    rw [withArgs_fit _ _ ha]
    exact volumeWrite_bad (s := takeRequest rest s) hm hbad
  · intro s tag args rest v w small medium large hs ha hm hsm hmd hl
    obtain ⟨t, hx, hmeter, hans⟩ := volumeWrite_request hs ha hm hsm hmd hl
    have hkeeps := exec_keeps _ s t rfl hx
    refine ⟨t, hx, ?_, fun v' w' hne => ?_, fun hidle => ?_, fun hopen => ?_, hans, hkeeps⟩
    all_goals rw [hmeter]
    · exact nth_writeVolumes_same v w _ _
    · exact nth_writeVolumes_other hne _ _
    · exact writeVolumes_idle (s := takeRequest rest s) hidle v w _
    · exact writeVolumes_open (s := takeRequest rest s) hopen v w _
  · intro s args n ha hm hn
    refine ⟨fun hidle => ?_, fun hopen => ?_⟩
    all_goals refine carries_of_quiet (carry := withArgs [2] swathLimitWrite) rfl rfl rfl fun tag rest => ?_
    all_goals rw [withArgs_fit _ _ ha, swathLimitWrite_done (s := takeRequest rest s) hm hn]
    · rw [writeSwathLimit_idle (s := takeRequest rest s) hidle]
      cases hheld : s.tracker.heldLimit <;> simp only [takeRequest, hheld] <;> rfl
    · rw [writeSwathLimit_open (s := takeRequest rest s) hopen]
      rfl
  · intro s args n ha hm hn
    refine carries_of_quiet (carry := withArgs [2] swathLimitWrite) rfl rfl rfl fun tag rest => ?_
    rw [withArgs_fit _ _ ha]
    exact swathLimitWrite_bad (s := takeRequest rest s) hm hn _
  · intro s i hm former
    have hformer : former = encOpt encSlot s.testArm := by
      cases harm : s.testArm <;> simp only [former, harm] <;> rfl
    rw [hformer]
    exact ⟨testWriteArm_carries hm (asSlotOrNone_slot i), testWriteArm_carries hm rfl⟩
  · intro s b hm hb hall
    refine carries_of_quiet (carry := withArgs [1] testWriteArm) rfl rfl rfl fun tag rest => ?_
    rw [withArgs_fit _ _ (fields_byte b)]
    exact testWriteArm_bad (s := takeRequest rest s) hm hb (byte_ne_all hall) _

end Sys2Proof.Machine
end

section
/-!
SUPPORT. What the operations of the blocks leave of the bounds of the lists (R49, R56, R65, R84, R85, R111, R169, R185, R191, R192) and of
what STANDBY rests on (R40, R89, R139, R152, R158, R188, R190): the two relations `Tidy` and `Calm`, how they compose, and which single
changes are in them.
-/

namespace Sys2Proof.Machine

-- In turn: proofs elaborated side by side hold more threads than the check gives memory for.
set_option Elab.async false

/-! ## One line (R84, R85) -/

/-- R84, R85: the queue keeps within its 8 places, and is full while the line holds an owed mark. -/
def Line.Lawful (ln : Line) : Prop :=
  ln.queue.length ≤ 8 ∧ ((∃ p k, (nth ln.owed p).has k = true) → ln.queue.length = 8)

theorem Line.Lawful.no_marks {ln : Line} (h : ln.Lawful) (hq : ln.queue.length < 8) (p : TagPos) (k : TxKind) :
    (nth ln.owed p).has k = false := by
  by_contra hm
  have := h.2 ⟨p, k, by simpa using hm⟩
  omega

theorem Line.Lawful.of_no_marks {ln : Line} (hq : ln.queue.length ≤ 8) (hm : ∀ p k, (nth ln.owed p).has k = false) : ln.Lawful :=
  ⟨hq, fun ⟨p, k, hpk⟩ => by rw [hm p k] at hpk; cases hpk⟩

theorem Line.Lawful.of_full {ln : Line} (hq : ln.queue.length = 8) : ln.Lawful := ⟨hq.le, fun _ => hq⟩

/-- The law speaks of the queue and the owed marks alone. -/
theorem Line.Lawful.congr {a b : Line} (h : a.Lawful) (hq : b.queue = a.queue) (ho : b.owed = a.owed) : b.Lawful := by
  unfold Line.Lawful at *
  rw [hq, ho]
  exact h

theorem Owed.has_of_first_none {o : Owed} (h : o.first = none) (k : TxKind) : o.has k = false := by
  have hall := List.find?_eq_none.1 h
  cases k <;> simpa using hall _ (by decide)

theorem Line.no_marks_of_nextOwed_none {ln : Line} (h : ln.nextOwed = none) (p : TagPos) (k : TxKind) :
    (nth ln.owed p).has k = false := by
  have hp := List.findSome?_eq_none_iff.1 h p (List.mem_finRange p)
  exact Owed.has_of_first_none (by simpa using hp) k

/-- R86: a place given to a mark leaves the line lawful or one entry nearer to a full queue. -/
theorem Line.serveOne_progress (l : LineNo) {ln : Line} {n : Nat} (hq : ln.queue.length ≤ 8) (h : ln.Lawful ∨ n ≤ ln.queue.length) :
    (ln.serveOne l).queue.length ≤ 8 ∧ ((ln.serveOne l).Lawful ∨ n + 1 ≤ (ln.serveOne l).queue.length) := by
  unfold Line.serveOne
  split
  · next hfree =>
    cases hn : ln.nextOwed with
    | none => exact ⟨hq, .inl (.of_no_marks hq (no_marks_of_nextOwed_none hn))⟩
    | some m =>
      have hlong : n ≤ ln.queue.length := by
        rcases h with h | h
        · have := h.no_marks hfree m.1 m.2
          rw [Line.nextOwed_has hn] at this
          cases this
        · exact h
      refine ⟨?_, .inr ?_⟩ <;> simp only [List.length_append, List.length_singleton] <;> omega
  · exact ⟨hq, .inl (.of_full (by omega))⟩

/-- R86: once the marks are served, the line is lawful, whatever marks it held. -/
theorem Line.serveMarks_lawful (l : LineNo) {ln : Line} (hq : ln.queue.length ≤ 8) : (ln.serveMarks l).Lawful := by
  have steps (n : Nat) : let x := (List.range n).foldl (fun x _ => Line.serveOne l x) ln
      x.queue.length ≤ 8 ∧ (x.Lawful ∨ n ≤ x.queue.length) := by
    induction n with
    | zero => exact ⟨hq, .inr (Nat.zero_le _)⟩
    | succ n ih =>
      rw [List.range_succ, List.foldl_append]
      exact serveOne_progress l ih.1 ih.2
  obtain ⟨hle, hl | hge⟩ := steps 8
  · exact hl
  · exact .of_full (Nat.le_antisymm hle hge)

/-- R85: a queued entry finds a free place; a mark is set on a full queue only. -/
theorem Line.Lawful.place {ln : Line} (h : ln.Lawful) (e : TxEntry) : (ln.place e).1.Lawful := by
  have joined (hfree : 1 ≤ ln.free) : ({ ln with queue := ln.queue ++ [e] } : Line).Lawful := by
    have hq : ln.queue.length < 8 := by unfold Line.free at hfree; omega
    exact .of_no_marks (by simpa using hq) (h.no_marks hq)
  unfold Line.place
  split
  · split
    · exact joined (by omega)
    · exact h
  · split
    · next hfree => exact joined hfree
    · next hfull =>
      have hq := h.1
      exact .of_full (by dsimp only; unfold Line.free at hfull; omega)

/-- R86, R87: a line with entries withdrawn and its marks rewritten and served. -/
theorem Line.Lawful.withdraw {ln : Line} (h : ln.Lawful) (l : LineNo) (hits : TxEntry → Bool) (owed : Tbl 4 Owed) :
    (({ ln.withdraw hits with owed := owed } : Line).serveMarks l).Lawful :=
  serveMarks_lawful l (Nat.le_trans (List.length_filter_le _ _) h.1)

/-! ## Bounds of the lists -/

/-- The bounds of every list while `n` requests are served and not yet answered: each holds a promised place. -/
def Bounds (n : Nat) (s : State) : Prop :=
  (s.mgmt.queue.length ≤ 4 ∧ s.mgmt.promised = keyWrites s.keys + n ∧ s.link.responses + s.mgmt.promised ≤ 7 ∧
    s.link.outgoing.length ≤ s.link.responses + 1 ∧ s.link.headBuf.length ≤ 4) ∧ ListsLawful s

/-- Between two steps no request stands half served. -/
theorem bounds_zero_iff {s : State} : Bounds 0 s ↔ PlacesLawful s ∧ ListsLawful s := Iff.rfl

/-- The parts that the bounds speak of. -/
def boundedParts : List Part :=
  [.requests, .promised, .keyWrites, .responses, .outgoing, .headBuffer, .eventQueue, .swathRing, .denyList, .lines]

/-- No list outgrows its places from `s` to `t`, and no promised place is lost. -/
def Tidy (s t : State) : Prop := ∀ n, Bounds n s → Bounds n t

namespace Tidy
variable {s t u : State}

theorem refl (s : State) : Tidy s s := fun _ h => h

theorem trans (h1 : Tidy s t) (h2 : Tidy t u) : Tidy s u := fun n h => h2 n (h1 n h)

theorem ite {c : Prop} [Decidable c] (h1 : c → Tidy s t) (h2 : ¬c → Tidy s u) : Tidy s (if c then t else u) := by
  split
  · exact h1 ‹_›
  · exact h2 ‹_›

theorem foldl {α : Type} (f : State → α → State) (xs : List α) (h : ∀ s x, Tidy s (f s x)) (s : State) : Tidy s (xs.foldl f s) :=
  List.foldlRecOn xs f (refl s) fun t ht x _ => ht.trans (h t x)

theorem of_keeps {fs : List Part} (h : Keeps fs s t) (hf : ∀ p ∈ boundedParts, p ∉ fs := by decide +kernel) : Tidy s t := by
  have same (p : Part) (hp : p ∈ boundedParts := by decide) : p.same s t := h p (hf p hp)
  have hrequests := same .requests
  have hpromised := same .promised
  have hkeys := same .keyWrites
  have hresponses := same .responses
  have houtgoing := same .outgoing
  have hbuffer := same .headBuffer
  have hevents := same .eventQueue
  have hring := same .swathRing
  have hdeny := same .denyList
  have hlines := same .lines
  simp only [Part.same] at hrequests hpromised hkeys hresponses houtgoing hbuffer hevents hring hdeny hlines
  intro n hs
  unfold Bounds ListsLawful keyWrites State.line at *
  rw [hrequests, hpromised, hkeys.1, hkeys.2, hresponses, houtgoing, hbuffer, hevents.1, hring.1, hdeny, hlines]
  exact hs

/-- A line record replaced by one that is lawful if the old one was. -/
theorem setLine {l : LineNo} {x : Line} (hx : (s.line l).Lawful → x.Lawful) : Tidy s (s.setLine l x) := by
  rintro n ⟨hplaces, hevents, hring, hdeny, hlines⟩
  refine ⟨hplaces, hevents, hring, hdeny, fun m => ?_⟩
  change ((s.setLine l x).line m).Lawful
  rw [line_setLine]
  split
  · exact hx (hlines l)
  · exact hlines m

/-- All line records replaced, each by one that is lawful if the old one was. -/
theorem setLines {f : LineNo → Line} (hf : ∀ l, (s.line l).Lawful → (f l).Lawful) : Tidy s { s with lines := tab f } := by
  rintro n ⟨hplaces, hevents, hring, hdeny, hlines⟩
  refine ⟨hplaces, hevents, hring, hdeny, fun l => ?_⟩
  have hl : ({ s with lines := tab f } : State).line l = f l := nth_tab f l
  rw [hl]
  exact hf l (hlines l)

/-- R66: a notice replaces the one that waits, or is the only one. -/
theorem placeNotice_length (n : Notice) (os : List OutFrame) (u : LinkUnit) :
    (placeNotice n os).length ≤ max os.length (({ u with outgoing := os } : LinkUnit).responses + 1) := by
  induction os with
  | nil => simp [placeNotice]
  | cons o os ih =>
    cases o with
    | notice m => simp [placeNotice]
    | response r =>
      simp only [placeNotice, List.length_cons, LinkUnit.responses, List.countP_cons] at ih ⊢
      simp only [↓reduceIte]
      omega

theorem requestNotice (k : EventKind) (a : Subject) (s : State) : Tidy s (requestNotice k a s) := by
  rintro n ⟨⟨hrequests, hpromised, hresponses, houtgoing, hbuffer⟩, hlists⟩
  have hsame : (Machine.requestNotice k a s).link.responses = s.link.responses := responses_placeNotice _ _ s.link
  have hlength := placeNotice_length
    { count := s.events.queue.length, overrun := s.events.overrun, cause := k, subject := a } s.link.outgoing s.link
  refine ⟨⟨hrequests, hpromised, hsame ▸ hresponses, ?_, hbuffer⟩, hlists⟩
  rw [hsame]
  exact Nat.le_trans hlength (Nat.max_le.2 ⟨houtgoing, Nat.le_refl _⟩)

theorem enqueue_length {u : EventUnit} (h : u.queue.length ≤ 256) (e : Event) : (u.enqueue e).queue.length ≤ 256 := by
  unfold EventUnit.enqueue
  split <;> simp only [List.length_append, List.length_tail, List.length_singleton] <;> omega

theorem enqueue (e : Event) (s : State) : Tidy s { s with events := s.events.enqueue e } := by
  rintro n ⟨hplaces, hevents, hring, hdeny, hlines⟩
  exact ⟨hplaces, enqueue_length hevents e, hring, hdeny, hlines⟩

/-- R66, R169: an event. -/
theorem raise (k : EventKind) (a : Subject) (d : Nat) (s : State) : Tidy s (raise k a d s) := by
  unfold Machine.raise
  dsimp only
  refine .ite (fun _ => trans ?_ (requestNotice k a _)) fun _ => ?_ <;>
  exact .ite (fun _ => enqueue _ s) fun _ => refl s

end Tidy

/-! ## What STANDBY rests on -/

/-- R139: an active audit names its slot. -/
def AuditNamed (s : State) : Prop := s.audit.state.active = true → s.audit.slot ≠ none

/-- The parts that the laws of STANDBY speak of. -/
def standbyParts : List Part := [.mode, .heldMode, .openSwath, .scheduleState, .audit, .lines]

/-- From `s` to `t` no mode or schedule state changes, no swath opens, no line changes its condition, and no audit becomes active unless
one may start. -/
structure Calm (starts : Bool) (s t : State) : Prop where
  mode : t.mgmt.mode = s.mgmt.mode
  held : t.mgmt.heldMode = s.mgmt.heldMode
  swath : s.tracker.current = none → t.tracker.current = none
  schedule : t.schedule.running = s.schedule.running ∧ t.schedule.action = s.schedule.action
  active : t.audit.state.active = true → starts = true ∨ s.audit.state.active = true
  named : AuditNamed s → AuditNamed t
  conditions : ∀ l, (t.line l).condition = (s.line l).condition

namespace Calm
variable {b : Bool} {s t u : State}

theorem of_keeps {fs : List Part} (h : Keeps fs s t) (hf : ∀ p ∈ standbyParts, p ∉ fs := by decide +kernel) : Calm b s t := by
  have same (p : Part) (hp : p ∈ standbyParts := by decide) : p.same s t := h p (hf p hp)
  have haudit : t.audit = s.audit := same .audit
  have hlines : t.lines = s.lines := same .lines
  exact {
    mode := same .mode
    held := same .heldMode
    swath := fun hn => Eq.trans (same .openSwath) hn
    schedule := same .scheduleState
    active := fun ha => .inr (haudit ▸ ha)
    named := fun hn => by unfold AuditNamed; rw [haudit]; exact hn
    conditions := fun l => by unfold State.line; rw [hlines] }

theorem refl (s : State) : Calm b s s := of_keeps (.refl [] s)

theorem trans (h1 : Calm b s t) (h2 : Calm b t u) : Calm b s u where
  mode := h2.mode.trans h1.mode
  held := h2.held.trans h1.held
  swath hn := h2.swath (h1.swath hn)
  schedule := ⟨h2.schedule.1.trans h1.schedule.1, h2.schedule.2.trans h1.schedule.2⟩
  active ha := (h2.active ha).elim .inl h1.active
  named hn := h2.named (h1.named hn)
  conditions l := (h2.conditions l).trans (h1.conditions l)

theorem setLine {l : LineNo} {x : Line} (hx : x.condition = (s.line l).condition) : Calm b s (s.setLine l x) where
  mode := rfl
  held := rfl
  swath := id
  schedule := ⟨rfl, rfl⟩
  active := .inr
  named := id
  conditions m := by
    rw [line_setLine]
    split
    · next e => rw [hx, e]
    · rfl

theorem setAudit {a : Audit} (ha : a.state.active = true → b = true ∨ s.audit.state.active = true)
    (hn : AuditNamed s → a.state.active = true → a.slot ≠ none) : Calm b s (s.setAudit a) where
  mode := rfl
  held := rfl
  swath := id
  schedule := ⟨rfl, rfl⟩
  active := ha
  named := hn
  conditions _ := rfl

end Calm

/-! ## Both together -/

/-- What almost every operation of the blocks does: it keeps the bounds, and changes nothing that STANDBY rests on. -/
structure Moves (starts : Bool) (s t : State) : Prop where
  tidy : Tidy s t
  calm : Calm starts s t

namespace Moves
variable {b : Bool} {s t u : State}

theorem refl (s : State) : Moves b s s := ⟨.refl s, .refl s⟩

theorem trans (h1 : Moves b s t) (h2 : Moves b t u) : Moves b s u := ⟨h1.tidy.trans h2.tidy, h1.calm.trans h2.calm⟩

theorem ite {c : Prop} [Decidable c] (h1 : c → Moves b s t) (h2 : ¬c → Moves b s u) : Moves b s (if c then t else u) := by
  split
  · exact h1 ‹_›
  · exact h2 ‹_›

theorem foldl {α : Type} (f : State → α → State) (xs : List α) (h : ∀ s x, Moves b s (f s x)) (s : State) : Moves b s (xs.foldl f s) :=
  List.foldlRecOn xs f (refl s) fun t ht x _ => ht.trans (h t x)

theorem of_keeps {fs : List Part} (h : Keeps fs s t) (hf : ∀ p ∈ boundedParts ++ standbyParts, p ∉ fs := by decide +kernel) :
    Moves b s t :=
  ⟨.of_keeps h fun p hp => hf p (List.mem_append_left _ hp), .of_keeps h fun p hp => hf p (List.mem_append_right _ hp)⟩

theorem raise (k : EventKind) (a : Subject) (d : Nat) (s : State) : Moves b s (raise k a d s) :=
  ⟨.raise k a d s, .of_keeps (raise_keeps k a d s)⟩

theorem setLine {l : LineNo} {x : Line} (hx : (s.line l).Lawful → x.Lawful) (hc : x.condition = (s.line l).condition) :
    Moves b s (s.setLine l x) := ⟨.setLine hx, .setLine hc⟩

/-- An audit record replaced by one that is active only if the old one was, and of the same slot. -/
theorem setAudit {a : Audit} (ha : a.state.active = true → s.audit.state.active = true) (hn : a.slot = s.audit.slot) :
    Moves b s (s.setAudit a) :=
  ⟨.of_keeps (setAudit_keeps s a), .setAudit (fun h => .inr (ha h)) fun hs h => hn ▸ hs (ha h)⟩

end Moves

end Sys2Proof.Machine
end


section
/-!
SUPPORT. One lemma for each operation of Machine/Bus.lean, Machine/Supply.lean and Machine/Audits.lean: it keeps the bounds and changes
nothing that STANDBY rests on (`Moves`).
-/

namespace Sys2Proof.Machine

-- In turn: proofs elaborated side by side hold more threads than the check gives memory for.
set_option Elab.async false

variable {b : Bool}

/-! ## Lines, owed commits, the end of an audit -/

theorem place_moves (i : SlotNo) (k : TxKind) (o : Origin) (rec : Option RecNo) (s : State) : Moves b s (place i k o rec s).1 :=
  .setLine (fun h => h.place _) (Line.place_rest _ _).1

theorem request_moves (i : SlotNo) (k : TxKind) (s : State) : Moves b s (request i k s) := place_moves i k _ _ s

theorem setOwedCommit_moves (i : SlotNo) (x : Bool) (s : State) : Moves b s (setOwedCommit i x s) :=
  .of_keeps (setOwedCommit_keeps i x s)

theorem serveOwedCommit_moves (i : SlotNo) (s : State) : Moves b s (serveOwedCommit i s) := by
  have cleared := setOwedCommit_moves (b := b) i false s
  unfold serveOwedCommit
  exact .ite (fun _ => .refl s) fun _ => .ite (fun _ => .refl s) fun _ => .ite (fun _ => .refl s) fun _ => .ite (fun _ => cleared)
    fun _ => .ite (fun _ => cleared.trans (request_moves i _ _)) fun _ => cleared

theorem withdrawLine_moves (l : LineNo) (hits : TxEntry → Bool) (owed : Tbl 4 Owed) (s : State) :
    Moves b s (s.setLine l (({ (s.line l).withdraw hits with owed := owed } : Line).serveMarks l)) :=
  .setLine (fun h => h.withdraw l hits owed) (Line.serveMarks_rest l _).1

theorem withdrawSlot_moves (i : SlotNo) (s : State) : Moves b s (withdrawSlot i s) := by
  have gone := withdrawLine_moves (b := b) (lineOf i) (fun e => e.slot == i)
  unfold withdrawSlot
  dsimp only
  exact .ite (fun _ => (gone _ s).trans (serveOwedCommit_moves i _)) fun _ => gone _ s

theorem withdrawRead_moves (i : SlotNo) (s : State) : Moves b s (withdrawRead i s) :=
  withdrawLine_moves (lineOf i) (fun e => e.slot == i && e.kind == .recordRead) _ s

/-- R153: DONE and ABORTED are not active. -/
theorem auditEnd_moves (r : Option AbortReason) (s : State) : Moves b s (auditEnd r s) := by
  unfold auditEnd
  split
  · exact .refl s
  · dsimp only
    refine .trans ?_ (.raise _ _ _ _)
    refine .trans ?_ (serveOwedCommit_moves _ _)
    refine .trans ?_ (withdrawRead_moves _ _)
    refine .setAudit (fun ha => ?_) rfl
    cases r <;> cases ha

theorem pressureTest_moves (i : SlotNo) (s : State) : Moves b s (pressureTest i s) :=
  .ite (fun _ => (setOwedCommit_moves i _ s).trans (auditEnd_moves _ _)) fun _ => .refl s

theorem trigger_moves (i : SlotNo) (o : Origin) (s : State) : Moves b s (trigger i o s).1 := by
  unfold trigger
  split
  · exact .refl s
  · split
    · exact (setOwedCommit_moves i _ s).trans (pressureTest_moves i _)
    · split
      · exact setOwedCommit_moves i _ s
      · exact place_moves i _ _ _ s

theorem triggerIfBehind_moves (i : SlotNo) (s : State) : Moves b s (triggerIfBehind i s) :=
  .ite (fun _ => trigger_moves i _ s) fun _ => .refl s

theorem stepTrigger_moves (i : SlotNo) (s : State) : Moves b s (stepTrigger i s) :=
  .ite (fun _ => trigger_moves i _ s) fun _ => .refl s

theorem modeTriggers_moves (s : State) : Moves b s (modeTriggers s) := .foldl _ _ (fun t i => triggerIfBehind_moves i t) s

/-! ## Selection runs and reports -/

theorem reportSlot_moves (s : State) (i : SlotNo) : Moves b s (reportSlot s i) := .of_keeps (reportSlot_keeps s i)

theorem retireCheck_moves (i : SlotNo) (s : State) : Moves b s (retireCheck i s) := .of_keeps (retireCheck_keeps i s)

theorem setChan_moves {c : ChannelNo} (x : Channel) (s : State) : Moves b s (s.setChan c x) :=
  .of_keeps (fs := [.channelSetup, .channelLimits, .supply, .selectionHeld, .switched])
    (setChan_keeps_of _ s c x (fun h => absurd (by decide) h) (fun h => absurd (by decide) h) (fun h => absurd (by decide) h)
      (fun h => absurd (by decide) h) fun h => absurd (by decide) h)

theorem reportSupply_moves (s : State) (c : ChannelNo) : Moves b s (reportSupply s c) := .of_keeps (reportSupply_keeps s c)

theorem runEvent_moves (c : ChannelNo) (was : Channel) (next : Option SlotNo) (s : State) : Moves b s (runEvent c was next s) := by
  unfold runEvent
  split
  · exact .ite (fun _ => .refl s) fun _ => .raise _ _ _ s
  · exact .raise _ _ _ s
  · exact .raise _ _ _ s
  · exact .ite (fun _ => .raise _ _ _ s) fun _ => .refl s

theorem applyRun_moves (c : ChannelNo) (s : State) : Moves b s (applyRun c s) := by
  have written (x : Channel) : Moves b s (reportSupply (s.setChan c x) c) := (setChan_moves x s).trans (reportSupply_moves _ c)
  have decided (x : Channel) (next : Option SlotNo) : Moves b s (runEvent c (s.chan c) next (reportSupply (s.setChan c x) c)) :=
    (written x).trans (runEvent_moves c _ _ _)
  unfold applyRun
  refine .ite (fun _ => written _) fun _ => ?_
  dsimp only
  split
  · exact .ite (fun _ => decided _ _) fun _ => (decided _ _).trans (retireCheck_moves _ _)
  · exact decided _ _

theorem selectionRun_moves (c : ChannelNo) (s : State) : Moves b s (selectionRun c s) :=
  .ite (fun _ => setChan_moves _ s) fun _ => applyRun_moves c s

theorem runAll_moves (s : State) : Moves b s (runAll s) := .foldl _ _ (fun t c => selectionRun_moves c t) s

theorem auditCheck_moves (i : SlotNo) (s : State) : Moves b s (auditCheck i s) :=
  .ite (fun _ => .ite (fun _ => .refl s) fun _ => .ite (fun _ => auditEnd_moves _ s) fun _ => auditEnd_moves _ s) fun _ => .refl s

theorem slotChecks_moves (i : SlotNo) (s : State) : Moves b s (slotChecks i s) := (auditCheck_moves i s).trans (retireCheck_moves i _)

theorem slotReported_moves (i : SlotNo) (s : State) : Moves b s (slotReported i s) :=
  (reportSlot_moves s i).trans (slotChecks_moves i _)

theorem runFor_moves (i : SlotNo) (s : State) : Moves b s (runFor i s) := by
  unfold runFor
  split
  · exact selectionRun_moves _ s
  · exact .refl s

theorem slotChanged_moves (i : SlotNo) (s : State) : Moves b s (slotChanged i s) :=
  ((reportSlot_moves s i).trans (runFor_moves i _)).trans (slotChecks_moves i _)

/-! ## Levels, evidence, rejection, faults -/

theorem setSlot_moves (i : SlotNo) (x : Slot) (s : State) : Moves b s (s.setSlot i x) := .of_keeps (setSlot_keeps s i x)

theorem setSlotState_moves (i : SlotNo) (st : SlotState) (s : State) : Moves b s (s.setSlotState i st) := setSlot_moves i _ s

theorem lowCheck_moves (i : SlotNo) (low : Nat) (s : State) : Moves b s (lowCheck i low s) :=
  .ite (fun _ => ((setSlot_moves i _ s).trans (reportSlot_moves _ i)).trans (.raise _ _ _ _)) fun _ => .refl s

theorem levelCheckCore_moves (i : SlotNo) (lim : Limits) (s : State) : Moves b s (levelCheckCore i lim s).1 := by
  have low := lowCheck_moves (b := b) i lim.low s
  unfold levelCheckCore
  dsimp only
  split
  · exact .refl s
  · split
    · split
      · exact (low.trans (setSlotState_moves i _ _)).trans (.raise _ _ _ _)
      · exact low
    · exact low

theorem levelCheck_moves (i : SlotNo) (s : State) : Moves b s (levelCheck i s) :=
  .ite (fun _ => (levelCheckCore_moves i _ s).trans (slotChanged_moves i _)) fun _ => levelCheckCore_moves i _ s

theorem growEvidence_moves (i : SlotNo) (m : Evidence) (s : State) : Moves b s (growEvidence i m s) :=
  ((setSlot_moves i _ s).trans (reportSlot_moves _ i)).trans (.raise _ _ _ _)

theorem historyEvidence_moves (serial : Nat) (m : Evidence) (s : State) : Moves b s (historyEvidence serial m s) :=
  .of_keeps (historyEvidence_keeps serial m s)

theorem addEvidenceCore_moves (i : SlotNo) (m : Evidence) (passing : Bool) (s : State) :
    Moves b s (addEvidenceCore i m passing s).1 := by
  have grown := growEvidence_moves (b := b) i m s
  have entered (n : Option Nat) (held : Bool) : Moves b s (match n with
      | some serial => if held then historyEvidence serial m (growEvidence i m s) else growEvidence i m s
      | none => growEvidence i m s) := by
    split
    · exact .ite (fun _ => grown.trans (historyEvidence_moves _ m _)) fun _ => grown
    · exact grown
  unfold addEvidenceCore
  dsimp only
  split
  · exact .refl s
  · split
    · exact (entered _ _).trans (setSlotState_moves i _ _)
    · exact entered _ _

theorem addEvidence_moves (i : SlotNo) (m : Evidence) (s : State) : Moves b s (addEvidence i m s) :=
  .ite (fun _ => (addEvidenceCore_moves i m _ s).trans (slotChanged_moves i _)) fun _ => addEvidenceCore_moves i m _ s

theorem rejectCore_moves (i : SlotNo) (r : RejectReason) (s : State) : Moves b s (rejectCore i r s) :=
  ((setSlotState_moves i _ s).trans (withdrawSlot_moves i _)).trans (.raise _ _ _ _)

theorem reject_moves (i : SlotNo) (r : RejectReason) (s : State) : Moves b s (reject i r s) :=
  (rejectCore_moves i r s).trans (slotChanged_moves i _)

theorem faultCore_moves (i : SlotNo) (r : FaultReason) (k : TxKind) (s : State) : Moves b s (faultCore i r k s) :=
  (((setSlotState_moves i _ s).trans (withdrawSlot_moves i _)).trans (.of_keeps (historyFault_keeps i _))).trans (.raise _ _ _ _)

/-! ## Debits -/

theorem reportOverdraw_moves (c : ChannelNo) (a : Option SlotNo) (n : Nat) (s : State) : Moves b s (reportOverdraw c a n s) :=
  .ite (fun _ => .refl s) fun _ => (Moves.of_keeps (overdrawFlag_keeps s c)).trans (.raise _ _ _ _)

theorem reportUnattributed_moves (c : ChannelNo) (a : Option SlotNo) (n : Nat) (s : State) :
    Moves b s (reportUnattributed c a n s) :=
  .ite (fun _ => .refl s) fun _ => (Moves.of_keeps (unattributedFlag_keeps s c)).trans (.raise _ _ _ _)

theorem afterDebit_moves (i : SlotNo) (s : State) : Moves b s (afterDebit i s) :=
  ((levelCheck_moves i s).trans (stepTrigger_moves i _)).trans (pressureTest_moves i _)

theorem debit_moves (c : ChannelNo) (d : Nat) (s : State) : Moves b s (debit c d s) := by
  have counted (k : Counters) : Moves b s (s.setCounters c k) := .of_keeps (setCounters_keeps s c k)
  have reported {t : State} (h : Moves b s t) (a : Option SlotNo) (n m : Nat) :
      Moves b s (reportUnattributed c a n (reportOverdraw c a m (reportMeter t c))) :=
    ((h.trans (.of_keeps (reportMeter_keeps t c))).trans (reportOverdraw_moves c a m _)).trans (reportUnattributed_moves c a n _)
  unfold debit
  refine .ite (fun _ => .refl s) fun _ => ?_
  dsimp only
  split
  · have taken (k : Counters) (i : SlotNo) (n : Nat) (x : Slot) :
        Moves b s (if n = 0 then s.setCounters c k else (s.setCounters c k).setSlot i x) :=
      .ite (fun _ => counted k) fun _ => (counted k).trans (setSlot_moves i x _)
    exact .ite (fun _ => reported (taken _ _ _ _) _ _ _) fun _ => (reported (taken _ _ _ _) _ _ _).trans (afterDebit_moves _ _)
  · exact reported (counted _) _ _ _

theorem addVolume_moves (c : ChannelNo) (v : Nat) (s : State) : Moves b s (addVolume c v s) :=
  (Moves.of_keeps (setCounters_keeps s c _)).trans (debit_moves c _ _)

/-! ## Audit passes -/

theorem setPass_moves (p : AuditPass) (s : State) : Moves b s (setPass p s) := .setAudit id rfl

theorem placeRead_moves (s : State) : Moves b s (placeRead s) := by
  unfold placeRead
  split
  · split
    · exact .ite (fun _ => (setPass_moves _ s).trans (place_moves _ _ _ _ _)) fun _ => .refl s
    · exact .refl s
  · exact .refl s

theorem beginPass_moves (s : State) : Moves b s (beginPass s) := (setPass_moves _ s).trans (placeRead_moves _)

theorem nextPass_moves (s : State) : Moves b s (nextPass s) :=
  .trans (.ite (fun _ => .refl s) fun _ => .setAudit (a := { s.audit with failing := [] }) id rfl) (beginPass_moves _)

/-- R145: an audit that is PAUSED by a failure was RUNNING. -/
theorem auditFailure_moves (n : RecNo) (k : FailureKind) (s : State) : Moves b s (auditFailure n k s) := by
  unfold auditFailure
  dsimp only
  split
  · exact .refl s
  · next i _ =>
    have found (failing : List RecNo) (first : Option FirstFailure) (x : Slot) :
        Moves b s (reportSlot ((addEvidence i .recordIntegrity
          (s.setAudit { s.audit with failing := failing, firstFailure := first })).setSlot i x) i) := by
      refine .trans (.trans (.trans ?_ (addEvidence_moves i _ _)) (setSlot_moves i _ _)) (reportSlot_moves _ i)
      exact .setAudit id rfl
    have paused {t : State} (ht : t.audit.state = .running) : Moves b t (t.setAudit { t.audit with state := .paused }) :=
      .setAudit (fun _ => by rw [ht]; rfl) rfl
    refine .ite (fun hp => ?_) fun _ => found _ _ _
    exact ((found _ _ _).trans (paused hp.2)).trans (.raise _ _ _ _)

theorem passEnd_moves (s : State) : Moves b s (passEnd s) := by
  have counted (n : Nat) : Moves b s (s.setAudit { s.audit with passes := n }) := .setAudit id rfl
  unfold passEnd
  dsimp only
  split
  · exact (counted _).trans (auditEnd_moves _ _)
  · exact (counted _).trans (auditEnd_moves _ _)
  · exact (counted _).trans (nextPass_moves _)
  · split
    · exact (counted _).trans (setPass_moves _ _)
    · exact counted _

theorem sequenceCheck_moves (s : State) : Moves b s (sequenceCheck s) := by
  unfold sequenceCheck
  split
  · refine .ite (fun _ => .ite (fun _ => passEnd_moves s) fun _ => ?_) fun _ => .refl s
    split
    · exact (auditFailure_moves _ _ s).trans (passEnd_moves _)
    · exact passEnd_moves s
  · exact .refl s

theorem auditContinue_moves (s : State) : Moves b s (auditContinue s) := by
  unfold auditContinue
  split
  · split
    · exact placeRead_moves s
    · exact sequenceCheck_moves s
    · exact .ite (fun _ => nextPass_moves s) fun _ => .refl s
  · exact .refl s

theorem readOutcome_moves (i : SlotNo) (n : RecNo) (r : Option (List Byte)) (s : State) : Moves b s (readOutcome i n r s) := by
  unfold readOutcome
  split
  · exact .refl s
  · refine .ite (fun _ => ?_) fun _ => .refl s
    dsimp only
    split
    · exact (setPass_moves _ s).trans (auditContinue_moves _)
    · refine .trans (.ite (fun _ => setPass_moves _ s) fun _ => ?_) (auditContinue_moves _)
      exact (setPass_moves _ s).trans (auditFailure_moves _ _ _)

theorem writeEnded_moves (i : SlotNo) (s : State) : Moves b s (writeEnded i s) := by
  unfold writeEnded
  split
  · exact .ite (fun _ => setPass_moves _ s) fun _ => .refl s
  · exact .refl s

/-- R141: only here an audit becomes active, and it names its slot. -/
theorem startAudit_moves (i : SlotNo) (m : AuditMode) (acc : Bool) (s : State) : Moves true s (startAudit i m acc s) := by
  refine .trans ⟨.of_keeps (setAudit_keeps s _), .setAudit (fun _ => .inl rfl) fun _ _ => ?_⟩ (beginPass_moves _)
  exact Option.some_ne_none i

end Sys2Proof.Machine
end

section
/-!
SUPPORT. The same for the operations on cartridges, transactions and frames, and for the work of the schedule.
-/

namespace Sys2Proof.Machine

variable {b : Bool}

/-! ## Presence and retirement -/

theorem setPresence_moves (i : SlotNo) (x : Presence) (s : State) : Moves b s (s.setPresence i x) := .of_keeps (setPresence_keeps s i x)

theorem contactClose_moves (i : SlotNo) (s : State) : Moves b s (contactClose i s) :=
  .ite (fun _ => .refl s) fun _ => .ite
    (fun _ => ((setPresence_moves i _ s).trans (setSlotState_moves i _ _)).trans (slotChanged_moves i _)) fun _ => setPresence_moves i _ s

theorem historyRemoval_moves (i : SlotNo) (s : State) : Moves b s (historyRemoval i s) := .of_keeps (historyRemoval_keeps i s)

theorem removeSlot_moves (i : SlotNo) (s : State) : Moves b s (removeSlot i s) :=
  ((((historyRemoval_moves i s).trans (setSlot_moves i _ _)).trans (withdrawSlot_moves i _)).trans (.raise _ _ _ _)).trans
    (slotChanged_moves i _)

theorem contactOpen_moves (i : SlotNo) (s : State) : Moves b s (contactOpen i s) := by
  have opened := setPresence_moves (b := b) i { closed := false, timer := none, wakeMark := false } s
  unfold contactOpen
  refine .ite (fun _ => ?_) fun _ => .refl s
  dsimp only
  split
  · exact opened
  · exact (opened.trans (setSlotState_moves i _ _)).trans (slotChanged_moves i _)
  · exact opened.trans (removeSlot_moves i _)

theorem settlingEnd_moves (i : SlotNo) (s : State) : Moves b s (settlingEnd i s) :=
  .ite (fun _ => .ite (fun _ => setPresence_moves i _ s) fun _ =>
    ((((setPresence_moves i _ s).trans (setSlotState_moves i _ _)).trans (.raise _ _ _ _)).trans (request_moves i _ _)).trans
      (slotChanged_moves i _)) fun _ => .refl s

theorem startRetirement_moves (i : SlotNo) (s : State) : Moves b s (startRetirement i s) :=
  .ite (fun _ => triggerIfBehind_moves i s) fun _ => (setSlotState_moves i _ s).trans (request_moves i _ _)

theorem retirementHandover_moves (i : SlotNo) (s : State) : Moves b s (retirementHandover i s) := by
  have cleared : Moves b s (s.setHandover i false) := .of_keeps (setHandover_keeps s i false)
  unfold retirementHandover
  refine .ite (fun _ => .ite (fun _ => ?_) fun _ => cleared) fun _ => .refl s
  exact (((cleared.trans (setSlotState_moves i _ _)).trans (slotChanged_moves i _)).trans (.of_keeps (historyRetire_keeps i _))).trans
    (startRetirement_moves i _)

theorem wakeSlot_moves (s : State) (i : SlotNo) : Moves b s (wakeSlot s i) := by
  unfold wakeSlot
  dsimp only
  split
  · exact (setSlotState_moves i _ s).trans (slotReported_moves i _)
  · refine .ite (fun _ => ?_) fun _ => .refl s
    exact ((((setPresence_moves i _ s).trans (setSlotState_moves i _ _)).trans (.raise _ _ _ _)).trans (request_moves i _ _)).trans
      (slotReported_moves i _)
  · split
    · exact ((setSlotState_moves i _ s).trans (request_moves i _ _)).trans (slotReported_moves i _)
    · exact .refl s

/-! ## Transactions -/

theorem sendOn_moves (l : LineNo) (fl : Flight) (s : State) : Moves b s (sendOn l fl s) := .of_keeps (sendOn_keeps l fl s)

/-- A change of a line's flight or counters. -/
theorem setLineRest_moves (l : LineNo) (f : Option Flight) (k : LineCounters) (s : State) :
    Moves b s (s.setLine l { s.line l with flight := f, counters := k }) := .setLine (fun h => h.congr rfl rfl) rfl

theorem setFlight_moves (l : LineNo) (f : Option Flight) (s : State) : Moves b s (setFlight l f s) := setLineRest_moves l f _ s

theorem modCounters_moves (l : LineNo) (f : LineCounters → LineCounters) (s : State) : Moves b s (modCounters l f s) :=
  setLineRest_moves l _ _ s

/-- R84, R86: the place that the front entry leaves goes to the owed marks at once. -/
theorem transactionStart_moves (l : LineNo) (s : State) : Moves b s (transactionStart l s) := by
  unfold transactionStart
  dsimp only
  split
  · next e rest _ hq =>
    refine .ite (fun _ => ?_) fun _ => .refl s
    have supplied : Moves b s (supplyPayload e s).2 := .of_keeps (supplyPayload_keeps e s)
    have hline : (supplyPayload e s).2.line l = s.line l := by
      unfold State.line
      rw [(supplyPayload_keeps e s).get .lines]
    refine (supplied.trans (.setLine (fun h => Line.serveMarks_lawful l ?_) ?_)).trans (sendOn_moves l _ _)
    · rw [hline] at h
      have hlength := h.1
      rw [hq, List.length_cons] at hlength
      exact Nat.le_of_succ_le hlength
    · rw [(Line.serveMarks_rest l _).1, hline]
  · exact .refl s

theorem retryPauseEnd_moves (l : LineNo) (s : State) : Moves b s (retryPauseEnd l s) := by
  unfold retryPauseEnd
  dsimp only
  split
  · split
    · exact (setLineRest_moves l _ _ s).trans (sendOn_moves l _ _)
    · exact .refl s
    · exact .refl s
  · exact .refl s

/-! ## The outcomes of transactions -/

theorem identified_moves (i : SlotNo) (bs : List Byte) (s : State) : Moves b s (identified i bs s) := by
  unfold identified
  refine .ite (fun _ => ?_) fun _ => .refl s
  dsimp only
  split
  · exact (setSlot_moves i _ s).trans (reject_moves i _ _)
  · exact (((setSlot_moves i _ s).trans (setSlotState_moves i _ _)).trans (request_moves i _ _)).trans (slotChanged_moves i _)

theorem historyPut_moves (n : HistNo) (e : Option HistoryEntry) (s : State) :
    Moves b s { s with history := s.history.put n e } := .of_keeps (historyPut_keeps s n e)

theorem historyFirstPass_moves (id : Identity) (q c consumed : Nat) (s : State) : Moves b s (historyFirstPass id q c consumed s) := by
  unfold historyFirstPass
  split
  · exact .of_keeps (updateEntry_keeps _ _ s)
  · dsimp only
    split
    · exact historyPut_moves _ _ s
    · split
      · exact .refl s
      · exact (historyPut_moves _ _ s).trans (.raise _ _ _ _)

theorem firstPass_moves (i : SlotNo) (id : Identity) (q c : Nat) (s : State) : Moves b s (firstPass i id q c s) := by
  unfold firstPass
  dsimp only
  refine .trans ?_ (triggerIfBehind_moves i _)
  refine .trans ?_ (slotChanged_moves i _)
  refine .trans ?_ (levelCheckCore_moves i _ _)
  refine .trans ?_ (.raise _ _ _ _)
  refine .trans ?_ (reportSlot_moves _ i)
  refine .trans ?_ (setSlot_moves i _ _)
  exact (historyFirstPass_moves id q c _ s).trans (.foldl _ _ (fun t m => addEvidenceCore_moves i m true t) _)

theorem firstAnswer_moves (i : SlotNo) (id : Identity) (n : BitVec 64) (bs : List Byte) (s : State) :
    Moves b s (firstAnswer i id n bs s) := by
  unfold firstAnswer
  refine .ite (fun _ => reject_moves i _ s) fun _ => .ite (fun _ => reject_moves i _ s) fun _ => .ite (fun _ => reject_moves i _ s)
    fun _ => ?_
  split
  · exact ((rejectCore_moves i _ s).trans (.raise _ _ _ _)).trans (slotChanged_moves i _)
  · exact firstPass_moves i id _ _ s

theorem returnSlot_moves (i : SlotNo) (ch : Challenge) (st : SlotState) (s : State) : Moves b s (returnSlot i ch st s) :=
  ((setSlot_moves i _ s).trans (.raise _ _ _ _)).trans (slotChanged_moves i _)

theorem laterAnswer_moves (i : SlotNo) (ch : Challenge) (r : ReturnState) (id : Identity) (n : BitVec 64) (bs : List Byte) (s : State) :
    Moves b s (laterAnswer i ch r id n bs s) :=
  .ite (fun _ => reject_moves i _ s) fun _ => .ite (fun _ => returnSlot_moves i ch _ s) fun _ =>
    (addEvidenceCore_moves i _ _ s).trans (returnSlot_moves i ch _ _)

theorem challenged_moves (i : SlotNo) (n : BitVec 64) (bs : List Byte) (s : State) : Moves b s (challenged i n bs s) := by
  unfold challenged
  split
  · exact firstAnswer_moves i _ n bs s
  · exact laterAnswer_moves i _ _ _ n bs s
  · exact laterAnswer_moves i _ _ _ n bs s
  · exact .refl s

theorem continueRetirement_moves (i : SlotNo) (s : State) : Moves b s (continueRetirement i s) :=
  .ite (fun _ => (setSlotState_moves i _ s).trans (request_moves i _ _)) fun _ => .refl s

theorem writeDone_moves (i : SlotNo) (c n : Nat) (s : State) : Moves b s (writeDone i c n s) := by
  unfold writeDone
  refine .trans ?_ (continueRetirement_moves i _)
  refine .trans ?_ (serveOwedCommit_moves i _)
  refine .trans ?_ (.of_keeps (retirementTrigger_keeps i _))
  refine .trans ?_ (writeEnded_moves i _)
  exact (setSlot_moves i _ s).trans (.of_keeps (historyCommit_keeps i _))

theorem writeRefused_moves (i : SlotNo) (s : State) : Moves b s (writeRefused i s) := by
  unfold writeRefused
  refine .trans ?_ (serveOwedCommit_moves i _)
  refine .trans ?_ (.raise _ _ _ _)
  refine .trans ?_ (addEvidence_moves i _ _)
  exact (faultCore_moves i _ _ s).trans (slotChanged_moves i _)

theorem marked_moves (i : SlotNo) (s : State) : Moves b s (marked i s) :=
  .ite (fun _ => ((setSlotState_moves i _ s).trans (.raise _ _ _ _)).trans (slotChanged_moves i _)) fun _ => .refl s

theorem succeed_moves (l : LineNo) (fl : Flight) (bs : Option (List Byte)) (refused : Bool) (s : State) :
    Moves b s (succeed l fl bs refused s) := by
  have ended : Moves b s (setFlight l none (modCounters l (fun k => { k with completed := sat32 (k.completed + 1) }) s)) :=
    (modCounters_moves l _ s).trans (setFlight_moves l _ _)
  unfold succeed
  dsimp only
  split
  · exact ended.trans (identified_moves _ _ _)
  · split
    · exact ended.trans (challenged_moves _ _ _ _)
    all_goals exact ended
  · refine .ite (fun _ => ended.trans (writeRefused_moves _ _)) fun _ => ?_
    split
    · exact ended.trans (writeDone_moves _ _ _ _)
    all_goals exact ended
  · exact ended.trans (marked_moves _ _)
  · split
    · exact ended.trans (readOutcome_moves _ _ _ _)
    all_goals exact ended

theorem exhaustTries_moves (l : LineNo) (fl : Flight) (s : State) : Moves b s (exhaustTries l fl s) := by
  have ended : Moves b s (setFlight l none (modCounters l (fun k => { k with failed := sat32 (k.failed + 1) }) s)) :=
    (modCounters_moves l _ s).trans (setFlight_moves l _ _)
  have chosen (n : Nat) := ended.trans (.of_keeps (freeCount_keeps _ n))
  unfold exhaustTries
  dsimp only
  refine .ite (fun _ => ended) fun _ => .ite (fun _ => ?_) fun _ => (ended.trans (faultCore_moves _ _ _ _)).trans (slotChanged_moves _ _)
  refine .trans (.trans ?_ (slotChanged_moves _ _)) (serveOwedCommit_moves _ _)
  exact .ite (fun _ => ((chosen _).trans (faultCore_moves _ _ _ _)).trans (.raise _ _ _ _))
    fun _ => ((chosen _).trans (.raise _ _ _ _)).trans (faultCore_moves _ _ _ _)

theorem endWithdrawn_moves (l : LineNo) (fl : Flight) (s : State) : Moves b s (endWithdrawn l fl s) :=
  .ite (fun _ => (setFlight_moves l _ s).trans (serveOwedCommit_moves _ _)) fun _ => setFlight_moves l _ s

theorem failTry_moves (l : LineNo) (fl : Flight) (s : State) : Moves b s (failTry l fl s) :=
  .ite (fun _ => endWithdrawn_moves l fl s) fun _ => .ite (fun _ => setFlight_moves l _ s) fun _ => exhaustTries_moves l fl s

theorem tryEnded_moves (l : LineNo) (fl : Flight) (v : Verdict) (s : State) : Moves b s (tryEnded l fl v s) := by
  unfold tryEnded
  split
  · exact .ite (fun _ => endWithdrawn_moves l fl s) fun _ => succeed_moves l fl _ _ s
  · exact .ite (fun _ => endWithdrawn_moves l fl s) fun _ => succeed_moves l fl _ _ s
  · exact .ite (fun _ => endWithdrawn_moves l fl s) fun _ => succeed_moves l fl _ _ s
  · exact (modCounters_moves l _ s).trans (failTry_moves l fl _)
  · exact (modCounters_moves l _ s).trans (failTry_moves l fl _)

theorem answerFrame_moves (l : LineNo) (a : AnswerFrame) (s : State) : Moves b s (answerFrame l a s) := by
  unfold answerFrame
  split
  · split
    · exact tryEnded_moves l _ _ s
    all_goals exact .refl s
  · exact .refl s

theorem answerTimeout_moves (l : LineNo) (s : State) : Moves b s (answerTimeout l s) := by
  unfold answerTimeout
  split
  · split
    · exact (modCounters_moves l _ s).trans (failTry_moves l _ _)
    all_goals exact .refl s
  · exact .refl s

/-! ## Frames -/

theorem linkUpdate_moves (st : LinkState) (n : Nat) (r : Option (List Byte)) (s : State) :
    Moves b s { s with link := { s.link with state := st, failures := n, reception := r } } :=
  .of_keeps (fs := [.linkState, .reception]) (by
    intro p hp
    cases p <;> first
      | exact absurd (by decide) hp | exact rfl | exact ⟨rfl, rfl⟩ | exact ⟨rfl, rfl, rfl⟩ | exact fun _ => rfl
      | exact fun _ => ⟨rfl, rfl⟩)

theorem goodFrame_moves (s : State) : Moves b s (goodFrame s) := by
  have heard := linkUpdate_moves (b := b) .up 0 none s
  unfold goodFrame
  dsimp only
  split
  · exact heard
  · exact heard.trans (.raise _ _ _ _)

theorem forward_moves (f : LinkFrame) (s : State) : Moves b s (forward f s) := .of_keeps (forward_keeps f s)

/-- R30, R31: a frame counts on a swath that is open, and opens none. -/
theorem inSwath_moves (g : OpenSwath → OpenSwath) (s : State) : Moves b s (inSwath g s) where
  tidy := .of_keeps (inSwath_keeps g s)
  calm := {
    mode := rfl
    held := rfl
    swath := fun hn => congrArg (Option.map g) hn
    schedule := ⟨rfl, rfl⟩
    active := .inr
    named := id
    conditions := fun _ => rfl }

theorem blankFrame_moves (f : FiringFrame) (s : State) : Moves b s (blankFrame f s) := (forward_moves _ s).trans (inSwath_moves _ _)

theorem unmappedUpdate_moves (h : Tbl 32 Bool) (s : State) :
    Moves b s { s with meter := { s.meter with unmappedReported := h } } :=
  .of_keeps (fs := [.unmappedFlags]) (by
    intro p hp
    cases p <;> first
      | exact absurd (by decide) hp | exact rfl | exact ⟨rfl, rfl⟩ | exact ⟨rfl, rfl, rfl⟩ | exact fun _ => rfl
      | exact fun _ => ⟨rfl, rfl⟩)

theorem discardFrame_moves (h : HeadNo) (f : FiringFrame) (s : State) : Moves b s (discardFrame h f s) :=
  .ite (fun _ => inSwath_moves _ s) fun _ => ((inSwath_moves _ s).trans (unmappedUpdate_moves _ _)).trans (.raise _ _ _ _)

theorem countFrame_moves (c : ChannelNo) (f : FiringFrame) (v : Nat) (s : State) : Moves b s (countFrame c f v s) :=
  ((forward_moves _ s).trans (inSwath_moves _ _)).trans (addVolume_moves c v _)

theorem meterFrame_moves (h : HeadNo) (f : FiringFrame) (s : State) : Moves b s (meterFrame h f s) := by
  cases hc : (nth s.meter.headMap h).channel with
  | none => exact meterFrame_unmapped hc f ▸ discardFrame_moves h f s
  | some c =>
    by_cases hg : (s.chan c).gate = .closed ∨ 2 ^ 64 ≤ (s.counter c).metered + headVolume s h f
    · exact meterFrame_blanks hc hg ▸ blankFrame_moves f s
    · obtain ⟨hopen, hv⟩ := counted_of_not_blanked hg
      exact meterFrame_counts hc hopen hv ▸ countFrame_moves c f _ s

theorem dispatchOther_moves (f : LinkFrame) (s : State) : Moves b s (dispatchOther f s) :=
  .ite (fun _ => .ite (fun _ => .refl s) fun _ => forward_moves f s) fun _ => .ite
    (fun _ => .ite (fun _ => .refl s) fun _ => .raise _ _ _ s) fun _ => .ite (fun _ => .refl s) fun _ => forward_moves f s

theorem firing_moves (f : FiringFrame) (s : State) : Moves b s (firing f s) := by
  unfold firing
  dsimp only
  split
  · exact .ite (fun _ => goodFrame_moves s) fun _ => (goodFrame_moves s).trans (meterFrame_moves _ f _)
  · exact (goodFrame_moves s).trans (dispatchOther_moves _ _)

theorem otherFrame_moves (f : LinkFrame) (s : State) :
    Moves b s (if (Instr.headControl f).wf then dispatchOther f (goodFrame s) else s) :=
  .ite (fun _ => (goodFrame_moves s).trans (dispatchOther_moves f _)) fun _ => .refl s

/-! ## The schedule -/

theorem startRechallenge_moves (i : SlotNo) (o : Origin) (s : State) : Moves b s (startRechallenge i o s).1 := by
  unfold startRechallenge
  dsimp only
  split
  · exact .refl s
  · split
    · exact ((place_moves i _ _ _ s).trans (setSlotState_moves i _ _)).trans (slotChanged_moves i _)
    · exact .refl s

theorem placeWork_moves (e : SchedEntry) (s : State) : Moves true s (placeWork e s).1 := by
  unfold placeWork
  split
  · exact startRechallenge_moves _ _ s
  · exact trigger_moves _ _ s
  · split
    · exact .refl s
    · split
      · exact .refl s
      · exact startAudit_moves _ _ _ s

theorem setEntry_moves (n : SchedNo) (e : SchedEntry) (s : State) : Moves b s (setEntry n e s) := .of_keeps (setEntry_keeps n e s)

theorem takeEntry_moves (s : State) (n : SchedNo) : Moves true s (takeEntry s n) := by
  unfold takeEntry advance
  dsimp only
  refine .ite (fun _ => .ite (fun _ => ?_) fun _ => setEntry_moves n _ s) fun _ => .refl s
  split
  · exact (placeWork_moves _ s).trans (setEntry_moves n _ _)
  · exact (((placeWork_moves _ s).trans (setEntry_moves n _ _)).trans (.raise _ _ _ _)).trans (setEntry_moves n _ _)

theorem processTable_moves (s : State) : Moves true s (processTable s) := .foldl _ _ takeEntry_moves s

end Sys2Proof.Machine
end


section
/-!
SUPPORT. Requests: most change the state as an operation of the blocks does and then reply (`Replies`).
-/

namespace Sys2Proof.Machine

-- In turn: proofs elaborated side by side hold more threads than the check gives memory for.
set_option Elab.async false

variable {b : Bool}

/-- The request is answered, and what it did before the answer is what the operations of the blocks do. -/
def Replies (starts : Bool) (r : Request) (s t : State) : Prop := ∃ u st res, Moves starts s u ∧ t = r.reply st res u

namespace Replies
variable {r : Request} {s t u : State}

theorem after (h : Moves b s u) (r : Request) (st : Status) (res : List Byte) : Replies b r s (r.reply st res u) :=
  ⟨u, st, res, h, rfl⟩

/-- A refusal, or a read. -/
theorem only (r : Request) (st : Status) (res : List Byte) (s : State) : Replies b r s (r.reply st res s) := after (.refl s) r st res

theorem ite {c : Prop} [Decidable c] (h1 : c → Replies b r s t) (h2 : ¬c → Replies b r s u) : Replies b r s (if c then t else u) := by
  split
  · exact h1 ‹_›
  · exact h2 ‹_›

end Replies

/-- The arguments of a request are as many as their widths. -/
theorem fields_length {ws : List Nat} {bs : List Byte} {vs : List Nat} (h : fields ws bs = some vs) : vs.length = ws.length := by
  induction ws generalizing bs vs with
  | nil =>
    unfold fields at h
    split at h
    all_goals simp_all
  | cons w ws ih =>
    unfold fields at h
    split at h
    · obtain ⟨us, hus, rfl⟩ := Option.map_eq_some_iff.1 h
      simp [ih hus]
    · cases h

theorem withArgs_replies {ws : List Nat} {n : Nat} {carry : List Nat → Request → State → State}
    (h : ∀ (r : Request) (s : State) (vs : List Nat), vs.length = n → Replies b r s (carry vs r s)) (r : Request) (s : State)
    (hn : ws.length = n := by rfl) : Replies b r s (withArgs ws carry r s) := by
  unfold withArgs
  split
  · next vs hvs => exact h r s vs ((fields_length hvs).trans hn)
  · exact .only r _ _ s

/-! ## Channels, maps and counters -/

theorem clearActive_moves (c : ChannelNo) (s : State) : Moves b s (clearActive c s) := by
  have cleared (x : Channel) : Moves b s (reportSupply (s.setChan c x) c) := (setChan_moves x s).trans (reportSupply_moves _ c)
  unfold clearActive
  dsimp only
  split
  · exact .refl s
  · refine .ite (fun _ => .refl s) fun _ => .trans ?_ (retireCheck_moves _ _)
    exact .ite (fun _ => cleared _) fun _ => (cleared _).trans (.raise _ _ _ _)

theorem inkCheck_moves (ink : Nat) (s : State) (i : SlotNo) : Moves b s (inkCheck ink s i) := by
  unfold inkCheck
  split
  · exact .ite (fun _ => (rejectCore_moves i _ s).trans (slotReported_moves i _)) fun _ => .refl s
  · exact .refl s

theorem newSlotCheck_moves (was : List SlotNo) (s : State) (i : SlotNo) : Moves b s (newSlotCheck was s i) :=
  .ite (fun _ => .ite (fun _ => (levelCheckCore_moves i _ s).trans (slotReported_moves i _)) fun _ => levelCheckCore_moves i _ s)
    fun _ => .refl s

theorem writeChannel_moves (c : ChannelNo) (ink : Nat) (feed : List SlotNo) (p : Policy) (s : State) :
    Moves b s (writeChannel c ink feed p s) := by
  unfold writeChannel
  refine .trans ?_ (selectionRun_moves c _)
  refine .trans ?_ (.foldl _ _ (newSlotCheck_moves _) _)
  refine .trans ?_ (.foldl _ _ (inkCheck_moves ink) _)
  exact (setChan_moves _ s).trans (clearActive_moves c _)

theorem channelWrite_replies (r : Request) (s : State) : Replies b r s (channelWrite r s) := by
  unfold channelWrite
  split
  · exact .only r _ _ s
  · refine .ite (fun _ => .only r _ _ s) fun _ => ?_
    split
    · exact .ite (fun _ => .only r _ _ s) fun _ => .after (writeChannel_moves _ _ _ _ s) r _ _
    · exact .only r _ _ s

theorem applyLimits_moves (c : ChannelNo) (lim : Limits) (s : State) : Moves b s (applyLimits c lim s) :=
  (setChan_moves _ s).trans (.foldl _ _ (fun t i => .ite (fun _ => levelCheck_moves i t) fun _ => .refl t) _)

theorem writeLimits_moves (c : ChannelNo) (lim : Limits) (s : State) : Moves b s (writeLimits c lim s) :=
  .ite (fun _ => setChan_moves _ s) fun _ => applyLimits_moves c lim s

theorem limitsWrite_replies (r : Request) (s : State) : ∀ vs : List Nat, vs.length = 4 → Replies b r s (limitsWrite vs r s)
  | [_, _, _, _], _ => by
    unfold limitsWrite
    refine .ite (fun _ => .only r _ _ s) fun _ => ?_
    split
    · exact .ite (fun _ => .after (writeLimits_moves _ _ s) r _ _) fun _ => .only r _ _ s
    · exact .only r _ _ s

theorem channelRead_replies (r : Request) (s : State) : ∀ vs : List Nat, vs.length = 1 → Replies b r s (channelRead vs r s)
  | [_], _ => by
    unfold channelRead
    dsimp only
    split
    · exact .only r _ _ s
    · exact .only r _ _ s

theorem headMapWrite_replies (r : Request) (s : State) : Replies b r s (headMapWrite r s) := by
  unfold headMapWrite
  split
  · exact .only r _ _ s
  · refine .ite (fun _ => .only r _ _ s) fun _ => .ite (fun _ => .only r _ _ s) fun _ => ?_
    split
    · exact .after (.of_keeps (writeMap_keeps _ _ s)) r _ _
    · exact .only r _ _ s

theorem headMapRead_replies (r : Request) (s : State) (vs : List Nat) (_ : vs.length = 0) : Replies b r s (headMapRead vs r s) :=
  .only r _ _ s

theorem volumeWrite_replies (r : Request) (s : State) : ∀ vs : List Nat, vs.length = 5 → Replies b r s (volumeWrite vs r s)
  | [_, _, _, _, _], _ => by
    unfold volumeWrite
    refine .ite (fun _ => .only r _ _ s) fun _ => ?_
    split
    · exact .ite (fun _ => .after (.of_keeps (writeVolumes_keeps _ _ _ s)) r _ _) fun _ => .only r _ _ s
    · exact .only r _ _ s

theorem volumeRead_replies (r : Request) (s : State) : ∀ vs : List Nat, vs.length = 1 → Replies b r s (volumeRead vs r s)
  | [_], _ => by
    unfold volumeRead
    dsimp only
    split
    · exact .only r _ _ s
    · exact .only r _ _ s

theorem countersClear_replies (r : Request) (s : State) : ∀ vs : List Nat, vs.length = 1 → Replies b r s (countersClear vs r s)
  | [_], _ => by
    unfold countersClear
    dsimp only
    split
    · exact .after (.foldl _ _ (fun t c => .of_keeps (clearCounters_keeps t c)) s) r _ _
    · exact .only r _ _ s

theorem channelDebit_replies (r : Request) (s : State) : ∀ vs : List Nat, vs.length = 2 → Replies b r s (channelDebit vs r s)
  | [_, _], _ => by
    unfold channelDebit
    refine .ite (fun _ => .only r _ _ s) fun _ => ?_
    split
    · exact .only r _ _ s
    · exact .ite (fun _ => .only r _ _ s) fun _ => .ite (fun _ => .only r _ _ s) fun _ => .ite (fun _ => .only r _ _ s) fun _ =>
        .after (addVolume_moves _ _ s) r _ _

/-! ## Swaths, lines, keys and the deny list -/

theorem swathLimitWrite_replies (r : Request) (s : State) : ∀ vs : List Nat, vs.length = 1 → Replies b r s (swathLimitWrite vs r s)
  | [_], _ =>
    .ite (fun _ => .only r _ _ s) fun _ => .ite (fun _ => .after (.of_keeps (writeSwathLimit_keeps _ s)) r _ _) fun _ => .only r _ _ s

theorem swathRead_replies (r : Request) (s : State) : ∀ vs : List Nat, vs.length = 2 → Replies b r s (swathRead vs r s)
  | [_, _], _ => .ite (fun _ => .only r _ _ s) fun _ => .only r _ _ s

theorem lineRead_replies (r : Request) (s : State) : ∀ vs : List Nat, vs.length = 1 → Replies b r s (lineRead vs r s)
  | [_], _ => by
    unfold lineRead
    dsimp only
    split
    · exact .only r _ _ s
    · exact .only r _ _ s

theorem keyStatus_replies (r : Request) (s : State) (vs : List Nat) (_ : vs.length = 0) : Replies b r s (keyStatus vs r s) :=
  .only r _ _ s

/-- A deny list that keeps its bound. -/
theorem Tidy.setDeny {d : List DenyRange} {s : State} (hd : s.deny.length ≤ 32 → d.length ≤ 32) : Tidy s { s with deny := d } := by
  rintro n ⟨hplaces, hevents, hring, hdeny, hlines⟩
  exact ⟨hplaces, hevents, hring, hd hdeny, hlines⟩

theorem setDeny_moves {d : List DenyRange} {s : State} (hd : s.deny.length ≤ 32 → d.length ≤ 32) :
    Moves b s { s with deny := d } := ⟨.setDeny hd, .of_keeps (denyUpdate_keeps s d)⟩

theorem denyRemove_replies (r : Request) (s : State) : ∀ vs : List Nat, vs.length = 1 → Replies b r s (denyRemove vs r s)
  | [_], _ =>
    .ite (fun _ => .only r _ _ s) fun _ => .ite (fun _ => .only r _ _ s) fun _ =>
      .after (setDeny_moves fun h => Nat.le_trans (List.length_eraseIdx_le _ _) h) r _ _

theorem denyRead_replies (r : Request) (s : State) (vs : List Nat) (_ : vs.length = 0) : Replies b r s (denyRead vs r s) :=
  .only r _ _ s

theorem rejectAll_moves (named : Identity → Bool) (why : RejectReason) (s : State) : Moves b s (rejectAll named why s) :=
  .foldl _ _ (fun t i => .ite (fun _ => reject_moves i why t) fun _ => .refl t) s

/-! ## Slots, history and the audit -/

theorem slotRead_replies (r : Request) (s : State) : ∀ vs : List Nat, vs.length = 1 → Replies b r s (slotRead vs r s)
  | [_], _ => by
    unfold slotRead
    dsimp only
    split
    · exact .only r _ _ s
    · exact .only r _ _ s

theorem retrySlot_moves (i : SlotNo) (s : State) : Moves b s (retrySlot i s) :=
  (((historyRemoval_moves i s).trans (setSlot_moves i _ _)).trans (request_moves i _ _)).trans (slotChanged_moves i _)

theorem slotRetry_replies (r : Request) (s : State) : ∀ vs : List Nat, vs.length = 1 → Replies b r s (slotRetry vs r s)
  | [_], _ => by
    unfold slotRetry
    refine .ite (fun _ => .only r _ _ s) fun _ => ?_
    split
    · exact .only r _ _ s
    · exact .ite (fun _ => .after (retrySlot_moves _ s) r _ _) fun _ => .only r _ _ s

theorem slotRechallenge_replies (r : Request) (s : State) : ∀ vs : List Nat, vs.length = 1 → Replies b r s (slotRechallenge vs r s)
  | [_], _ => by
    unfold slotRechallenge
    refine .ite (fun _ => .only r _ _ s) fun _ => ?_
    split
    · exact .only r _ _ s
    · exact .ite (fun _ => .after (startRechallenge_moves _ _ s) r _ _) fun _ => .only r _ _ s

theorem testWriteArm_replies (r : Request) (s : State) : ∀ vs : List Nat, vs.length = 1 → Replies b r s (testWriteArm vs r s)
  | [_], _ => by
    unfold testWriteArm
    refine .ite (fun _ => .only r _ _ s) fun _ => ?_
    split
    · exact .after (.of_keeps (testArmUpdate_keeps s _)) r _ _
    · exact .only r _ _ s

theorem historyRead_replies (r : Request) (s : State) : ∀ vs : List Nat, vs.length = 2 → Replies b r s (historyRead vs r s)
  | [_, _], _ => .ite (fun _ => .ite (fun _ => .only r _ _ s) fun _ => .only r _ _ s) fun _ => .only r _ _ s

theorem historyErase_replies (r : Request) (s : State) (vs : List Nat) (_ : vs.length = 0) : Replies b r s (historyErase vs r s) :=
  .ite (fun _ => .only r _ _ s) fun _ => .ite (fun _ => .only r _ _ s) fun _ => .after (.of_keeps (eraseHistory_keeps s)) r _ _

/-- R141: an accepted AUDIT START. -/
theorem auditStart_replies (r : Request) (s : State) : ∀ vs : List Nat, vs.length = 3 → Replies true r s (auditStart vs r s)
  | [_, _, _], _ => by
    unfold auditStart
    refine .ite (fun _ => .only r _ _ s) fun _ => ?_
    split
    · exact .ite (fun _ => .only r _ _ s) fun _ => .ite (fun _ => .after (startAudit_moves _ _ _ s) r _ _) fun _ => .only r _ _ s
    · exact .only r _ _ s

/-- R147: only an audit that is PAUSED, and so active, goes on. -/
theorem resumeAudit_moves {s : State} (hp : s.audit.state = .paused) : Moves b s (resumeAudit s) :=
  .trans (.setAudit (a := { s.audit with failing := [], firstFailure := none, state := .running }) (fun _ => by rw [hp]; rfl) rfl)
    (auditContinue_moves _)

theorem auditContinueRequest_replies (r : Request) (s : State) (vs : List Nat) (_ : vs.length = 0) :
    Replies b r s (auditContinueRequest vs r s) :=
  .ite (fun hp => .after (resumeAudit_moves hp) r _ _) fun _ => .only r _ _ s

theorem auditStop_replies (r : Request) (s : State) (vs : List Nat) (_ : vs.length = 0) : Replies b r s (auditStop vs r s) := by
  unfold auditStop
  split
  · next hr => exact .after (.setAudit (a := { s.audit with state := .stopping }) (fun _ => by rw [hr]; rfl) rfl) r _ _
  · exact .only r _ _ s
  · exact .after (auditEnd_moves _ s) r _ _
  all_goals exact .only r _ _ s

theorem auditRead_replies (r : Request) (s : State) (vs : List Nat) (_ : vs.length = 0) : Replies b r s (auditRead vs r s) :=
  .only r _ _ s

/-! ## Schedule, events, indicators and the part -/

theorem scheduleWrite_replies (r : Request) (s : State) : ∀ vs : List Nat, vs.length = 6 → Replies b r s (scheduleWrite vs r s)
  | [_, _, _, _, _, _], _ => by
    unfold scheduleWrite
    dsimp only
    split
    · exact .ite (fun _ => .after (setEntry_moves _ _ s) r _ _) fun _ => .only r _ _ s
    · exact .only r _ _ s

theorem scheduleRead_replies (r : Request) (s : State) : ∀ vs : List Nat, vs.length = 2 → Replies b r s (scheduleRead vs r s)
  | [_, _], _ => .ite (fun _ => .only r _ _ s) fun _ => .only r _ _ s

/-- R171: a read takes events from the queue and adds none. -/
theorem eventDrop_moves (n : Nat) (s : State) :
    Moves b s { s with events := { s.events with queue := s.events.queue.drop n, overrun := false } } where
  tidy := by
    rintro m ⟨hplaces, hevents, hring, hdeny, hlines⟩
    exact ⟨hplaces, Nat.le_trans (by simp) hevents, hring, hdeny, hlines⟩
  calm := .of_keeps (eventDrop_keeps n s)

theorem eventRead_replies (r : Request) (s : State) : ∀ vs : List Nat, vs.length = 1 → Replies b r s (eventRead vs r s)
  | [n], _ => .ite (fun _ => .after (eventDrop_moves n s) r _ _) fun _ => .only r _ _ s

theorem eventInsert_replies (r : Request) (s : State) : ∀ vs : List Nat, vs.length = 3 → Replies b r s (eventInsert vs r s)
  | [_, _, _], _ => by
    unfold eventInsert
    dsimp only
    split
    · exact .after (.raise _ _ _ s) r _ _
    · exact .only r _ _ s

theorem routeWrite_replies (r : Request) (s : State) : ∀ vs : List Nat, vs.length = 3 → Replies b r s (routeWrite vs r s)
  | [_, _, _], _ => by
    unfold routeWrite
    dsimp only
    split
    · exact .after (.foldl _ _ (fun t k => .of_keeps (setRoute_keeps _ t k)) s) r _ _
    · exact .only r _ _ s

theorem routeRead_replies (r : Request) (s : State) (vs : List Nat) (_ : vs.length = 0) : Replies b r s (routeRead vs r s) :=
  .only r _ _ s

theorem conditionRead_replies (r : Request) (s : State) : ∀ vs : List Nat, vs.length = 1 → Replies b r s (conditionRead vs r s)
  | [_], _ => by
    unfold conditionRead
    dsimp only
    split
    · exact .after (.ite (fun _ => .of_keeps (reloadLatches_keeps s)) fun _ => .refl s) r _ _
    · exact .only r _ _ s

theorem indicatorWrite_replies (r : Request) (s : State) : Replies b r s (indicatorWrite r s) := by
  unfold indicatorWrite
  split
  · exact .only r _ _ s
  · exact .after (.of_keeps (setIndicator_keeps s _ _)) r _ _

theorem indicatorRelease_replies (r : Request) (s : State) : ∀ vs : List Nat, vs.length = 1 → Replies b r s (indicatorRelease vs r s)
  | [_], _ => by
    unfold indicatorRelease
    dsimp only
    split
    · exact .only r _ _ s
    · exact .ite (fun _ => .only r _ _ s) fun _ => .after (.foldl _ _ (fun t i => .of_keeps (releaseOne_keeps t i)) s) r _ _

theorem indicatorRead_replies (r : Request) (s : State) (vs : List Nat) (_ : vs.length = 0) : Replies b r s (indicatorRead vs r s) :=
  .only r _ _ s

theorem statusRead_replies (r : Request) (s : State) (vs : List Nat) (_ : vs.length = 0) : Replies b r s (statusRead vs r s) :=
  .only r _ _ s

theorem timeSet_replies (r : Request) (s : State) : ∀ vs : List Nat, vs.length = 1 → Replies b r s (timeSet vs r s)
  | [_], _ => .after (.of_keeps (partTimeUpdate_keeps s _)) r _ _

theorem partReset_replies (r : Request) (s : State) (vs : List Nat) (_ : vs.length = 0) : Replies b r s (partReset vs r s) :=
  .after (.of_keeps (resetPendingUpdate_keeps s)) r _ _

end Sys2Proof.Machine
end


section
/-!
The laws of STANDBY (R40, R89, R139, R152, R158, R188, R190): how they follow from `Moves`, the operations that change the mode, open or
close a swath or change a line's condition, and every command.
-/

namespace Sys2Proof.Machine

-- In turn: proofs elaborated side by side hold more threads than the check gives memory for.
set_option Elab.async false

variable {b : Bool}

/-! ## The parts of a close -/

theorem trackerClose_current (o : SwathOutcome) (w : OpenSwath) (s : State) : (trackerClose o w s).tracker.current = none := by
  unfold trackerClose Tracker.applyLimit
  dsimp only
  split <;> rfl

/-- A tracker whose ring keeps its bound. -/
theorem Tidy.setTracker {x : Tracker} {s : State} (hx : s.tracker.ring.length ≤ 16 → x.ring.length ≤ 16) :
    Tidy s { s with tracker := x } := by
  rintro n ⟨hplaces, hevents, hring, hdeny, hlines⟩
  exact ⟨hplaces, hevents, hx hring, hdeny, hlines⟩

theorem Tracker.applyLimit_ring (x : Tracker) : x.applyLimit.ring = x.ring := by
  unfold Tracker.applyLimit
  split <;> rfl

/-- R49: the record of the closed swath takes a place of the 16. -/
theorem trackerClose_tidy (o : SwathOutcome) (w : OpenSwath) (s : State) : Tidy s (trackerClose o w s) := by
  have recorded (n : Nat) : Tidy s { s with tracker := { s.tracker with ring := (o.recordOf w :: s.tracker.ring).take 16, closes := n } } :=
    .setTracker fun _ => List.length_take_le _ _
  unfold trackerClose
  refine .trans (.ite (fun _ => recorded _) fun _ => (recorded _).trans (.raise _ _ _ _)) (.setTracker fun h => ?_)
  rw [Tracker.applyLimit_ring]
  exact h

theorem trackerClose_calm (o : SwathOutcome) (w : OpenSwath) (s : State) : Calm b s (trackerClose o w s) where
  mode := (trackerClose_keeps o w s).get .mode
  held := (trackerClose_keeps o w s).get .heldMode
  swath _ := trackerClose_current o w s
  schedule := (trackerClose_keeps o w s).get .scheduleState
  active ha := .inr ((trackerClose_keeps o w s).get .audit ▸ ha)
  named hn := by
    unfold AuditNamed
    rw [(trackerClose_keeps o w s).get .audit]
    exact hn
  conditions l := by
    unfold State.line
    rw [(trackerClose_keeps o w s).get .lines]

theorem trackerClose_moves (o : SwathOutcome) (w : OpenSwath) (s : State) : Moves b s (trackerClose o w s) :=
  ⟨trackerClose_tidy o w s, trackerClose_calm o w s⟩

theorem applyHeldLimits_moves (s : State) (c : ChannelNo) : Moves b s (applyHeldLimits s c) := by
  unfold applyHeldLimits
  split
  · exact applyLimits_moves c _ s
  · exact .refl s

theorem applyHeldRun_moves (s : State) (c : ChannelNo) : Moves b s (applyHeldRun s c) :=
  .ite (fun _ => (setChan_moves _ s).trans (applyRun_moves c _)) fun _ => .refl s

/-- R51: all that a close applies before the held mode change. -/
def applyHeldRecords (s : State) : State :=
  clearReported (applyStaged ((List.finRange 8).foldl applyHeldRun ((List.finRange 8).foldl applyHeldLimits (clearSwitched s))))

theorem applyHeld_eq (s : State) : applyHeld s = applyHeldMode (applyHeldRecords s) := rfl

theorem applyHeldRecords_moves (s : State) : Moves b s (applyHeldRecords s) := by
  unfold applyHeldRecords
  refine .trans ?_ (.of_keeps (clearReported_keeps _))
  refine .trans ?_ (.of_keeps (applyStaged_keeps _))
  refine .trans ?_ (.foldl _ _ applyHeldRun_moves _)
  exact (Moves.of_keeps (clearSwitched_keeps s)).trans (.foldl _ _ applyHeldLimits_moves _)

theorem closeSwath_idle {s : State} (h : s.tracker.current = none) (o : SwathOutcome) : closeSwath o s = s := by
  unfold closeSwath
  rw [h]

theorem closeSwath_open {s : State} {w : OpenSwath} (h : s.tracker.current = some w) (o : SwathOutcome) :
    ∃ u, (∀ b, Moves b s u) ∧ u.tracker.current = none ∧ closeSwath o s = applyHeldMode u := by
  refine ⟨applyHeldRecords (trackerClose o w s), fun b => (trackerClose_moves o w s).trans (applyHeldRecords_moves _),
    (applyHeldRecords_moves (b := true) _).calm.swath (trackerClose_current o w s), ?_⟩
  unfold closeSwath
  rw [h]
  exact applyHeld_eq _

/-! ## A change of mode -/

/-- R188: what follows the change itself. -/
theorem applyMode_moves (m : Mode) (s : State) : Moves b (takeMode m s) (applyMode m s) := by
  have closed : Moves b (takeMode m s) (closeGates (takeMode m s)) := .of_keeps (closeGates_keeps _)
  unfold applyMode
  exact .trans (.ite (fun _ => closed.trans (modeTriggers_moves _)) fun _ => .refl _) (runAll_moves _)

theorem takeMode_mode (m : Mode) (s : State) : (takeMode m s).mgmt.mode = m := (raise_keeps _ _ _ _).get .mode

theorem takeMode_named {s : State} (h : AuditNamed s) (m : Mode) : AuditNamed (takeMode m s) := by
  unfold AuditNamed
  rw [(takeMode_keeps m s).get .audit]
  exact h

theorem applyMode_mode (m : Mode) (s : State) : (applyMode m s).mgmt.mode = m :=
  (applyMode_moves (b := true) m s).calm.mode.trans (takeMode_mode m s)

theorem applyMode_held (m : Mode) (s : State) : (applyMode m s).mgmt.heldMode = s.mgmt.heldMode :=
  (applyMode_keeps m s).get .heldMode

theorem applyMode_current {s : State} (h : s.tracker.current = none) (m : Mode) : (applyMode m s).tracker.current = none :=
  ((applyMode_keeps m s).get .openSwath).trans h

theorem applyHeldMode_current {s : State} (h : s.tracker.current = none) : (applyHeldMode s).tracker.current = none :=
  ((applyHeldMode_keeps s).get .openSwath).trans h

theorem applyHeldMode_held (s : State) : (applyHeldMode s).mgmt.heldMode = none := by
  unfold applyHeldMode
  split
  · assumption
  · dsimp only
    split
    · rfl
    · exact applyMode_held _ _

theorem closeSwath_current (o : SwathOutcome) (s : State) : (closeSwath o s).tracker.current = none := by
  cases h : s.tracker.current with
  | none => rw [closeSwath_idle h o, h]
  | some w =>
    obtain ⟨u, -, hu, he⟩ := closeSwath_open h o
    exact he ▸ applyHeldMode_current hu

theorem closeSwath_held {s : State} (hh : s.mgmt.heldMode = none) (o : SwathOutcome) : (closeSwath o s).mgmt.heldMode = none := by
  cases h : s.tracker.current with
  | none => rw [closeSwath_idle h o, hh]
  | some w =>
    obtain ⟨u, -, -, he⟩ := closeSwath_open h o
    exact he ▸ applyHeldMode_held u

/-! ## The end of the scan -/

theorem scanEnd_idle {s : State} (h : ¬s.history.scanning = true) : scanEnd s = s := if_neg h

/-- R88, R90: the hold of every line is lifted. -/
theorem scanEnd_line {s : State} (h : s.history.scanning = true) (l : LineNo) : (scanEnd s).line l = (s.line l).release s.mgmt.mode := by
  have kept : Keeps Foot.history s ((List.finRange 64).foldl scanPlace s) := .foldl _ _ scanPlace_keeps s
  unfold scanEnd State.line
  rw [if_pos h]
  generalize (List.finRange 64).foldl scanPlace s = u at kept ⊢
  dsimp only
  rw [nth_tab, kept.get .lines, kept.get .mode]

/-! ## Outside STANDBY -/

/-- What the laws of STANDBY ask of a state in another mode. -/
structure Awake (s : State) : Prop where
  mode : s.mgmt.mode ≠ .standby
  held : s.mgmt.heldMode ≠ some .standby
  named : AuditNamed s

namespace Awake
variable {s t : State}

theorem standbyLawful (h : Awake s) : StandbyLawful s := ⟨h.held, h.named, fun hm => absurd hm h.mode⟩

theorem of_moves (h : Awake s) (hm : Moves b s t) : Awake t :=
  ⟨hm.calm.mode ▸ h.mode, hm.calm.held ▸ h.held, hm.calm.named h.named⟩

theorem of_keeps {fs : List Part} (h : Awake s) (k : Keeps fs s t)
    (hf : ∀ p ∈ [Part.mode, .heldMode, .audit], p ∉ fs := by decide +kernel) : Awake t := by
  have same (p : Part) (hp : p ∈ [Part.mode, .heldMode, .audit] := by decide) : p.same s t := k p (hf p hp)
  have hmode : t.mgmt.mode = s.mgmt.mode := same .mode
  have hheld : t.mgmt.heldMode = s.mgmt.heldMode := same .heldMode
  have haudit : t.audit = s.audit := same .audit
  exact ⟨hmode ▸ h.mode, hheld ▸ h.held, by unfold AuditNamed; rw [haudit]; exact h.named⟩

end Awake

theorem applyMode_awake {s : State} {m : Mode} (hm : m ≠ .standby) (hh : s.mgmt.heldMode ≠ some .standby) (hn : AuditNamed s) :
    Awake (applyMode m s) :=
  ⟨(applyMode_mode m s).trans_ne hm, (applyMode_held m s).trans_ne hh, (applyMode_moves (b := true) m s).calm.named (takeMode_named hn m)⟩

namespace Awake
variable {s t : State}

/-- R188: the mode that is held is not STANDBY. -/
theorem applyHeldMode (h : Awake s) : Awake (applyHeldMode s) := by
  have cleared : Awake { s with mgmt := { s.mgmt with heldMode := none } } := ⟨h.mode, nofun, h.named⟩
  unfold Machine.applyHeldMode
  cases hm : s.mgmt.heldMode with
  | none => exact h
  | some m =>
    dsimp only
    split
    · exact cleared
    · exact applyMode_awake (fun e => h.held (e ▸ hm)) cleared.held cleared.named

theorem closeSwath (h : Awake s) (o : SwathOutcome) : Awake (closeSwath o s) := by
  cases hc : s.tracker.current with
  | none =>
    rw [closeSwath_idle hc o]
    exact h
  | some w =>
    obtain ⟨u, hu, -, he⟩ := closeSwath_open hc o
    exact he ▸ (h.of_moves (hu true)).applyHeldMode

end Awake

/-! ## In every mode -/

namespace StandbyLawful
variable {s t : State}

theorem awake (h : StandbyLawful s) (hm : s.mgmt.mode ≠ .standby) : Awake s := ⟨hm, h.1, h.2.1⟩

theorem of_calm (h : StandbyLawful s) (c : Calm false s t) : StandbyLawful t := by
  obtain ⟨hheld, hnamed, hstandby⟩ := h
  refine ⟨c.held ▸ hheld, c.named hnamed, fun hm => ?_⟩
  obtain ⟨hswath, haudit, hrunning, haction, hnone, hlines⟩ := hstandby (c.mode ▸ hm)
  refine ⟨c.swath hswath, ?_, c.schedule.1.trans hrunning, c.schedule.2 ▸ haction, c.held.trans hnone, fun l => c.conditions l ▸ hlines l⟩
  by_contra ha
  have := (c.active (by simpa using ha)).resolve_left Bool.false_ne_true
  rw [haudit] at this
  cases this

theorem of_moves (h : StandbyLawful s) (hm : Moves false s t) : StandbyLawful t := h.of_calm hm.calm

theorem of_keeps {fs : List Part} (h : StandbyLawful s) (k : Keeps fs s t) (hf : ∀ p ∈ standbyParts, p ∉ fs := by decide +kernel) :
    StandbyLawful t := h.of_calm (.of_keeps k hf)

theorem ite {c : Prop} [Decidable c] {u : State} (h1 : c → StandbyLawful t) (h2 : ¬c → StandbyLawful u) :
    StandbyLawful (if c then t else u) := by
  split
  · exact h1 ‹_›
  · exact h2 ‹_›

/-- What may start an audit, outside STANDBY. -/
theorem of_moves_awake (h : StandbyLawful s) (hm : s.mgmt.mode ≠ .standby) (k : Moves true s t) : StandbyLawful t :=
  ((h.awake hm).of_moves k).standbyLawful

/-- A change of lines that makes none RUNNING in STANDBY. -/
theorem of_lines {fs : List Part} (h : StandbyLawful s) (k : Keeps fs s t)
    (hl : s.mgmt.mode = .standby → ∀ l, (s.line l).condition ≠ .running → (t.line l).condition ≠ .running)
    (hf : ∀ p ∈ [Part.mode, .heldMode, .openSwath, .scheduleState, .audit], p ∉ fs := by decide +kernel) : StandbyLawful t := by
  have same (p : Part) (hp : p ∈ [Part.mode, .heldMode, .openSwath, .scheduleState, .audit] := by decide) : p.same s t := k p (hf p hp)
  have hmode : t.mgmt.mode = s.mgmt.mode := same .mode
  have hheld : t.mgmt.heldMode = s.mgmt.heldMode := same .heldMode
  have haudit : t.audit = s.audit := same .audit
  have hswath : t.tracker.current = s.tracker.current := same .openSwath
  have hschedule : t.schedule.running = s.schedule.running ∧ t.schedule.action = s.schedule.action := same .scheduleState
  unfold StandbyLawful at *
  rw [hmode, hheld, haudit, hswath, hschedule.1, hschedule.2]
  refine ⟨h.1, h.2.1, fun hm => ?_⟩
  obtain ⟨h1, h2, h3, h4, h5, hlines⟩ := h.2.2 hm
  exact ⟨h1, h2, h3, h4, h5, fun l => hl hm l (hlines l)⟩

theorem of_reset (hm : t.mgmt = State.reset.mgmt) (ha : t.audit = State.reset.audit) : StandbyLawful t := by
  refine Awake.standbyLawful ⟨?_, ?_, ?_⟩
  · rw [hm]; decide
  · rw [hm]; decide
  · unfold AuditNamed
    rw [ha]
    nofun

/-! ### Swaths -/

/-- In STANDBY there is no swath to close. -/
theorem closeSwath (h : StandbyLawful s) (o : SwathOutcome) : StandbyLawful (closeSwath o s) := by
  by_cases hm : s.mgmt.mode = .standby
  · rw [closeSwath_idle (h.2.2 hm).1 o]
    exact h
  · exact ((h.awake hm).closeSwath o).standbyLawful

theorem trackOpen (h : StandbyLawful s) (id : Nat) : StandbyLawful (trackOpen id s) :=
  .ite (fun _ => h) fun hm => (((h.awake hm).closeSwath .cut).of_keeps (openSwath_keeps id _)).standbyLawful

theorem trackClose (h : StandbyLawful s) (id : Nat) : StandbyLawful (trackClose id s) := by
  unfold Machine.trackClose
  refine .ite (fun _ => h) fun _ => ?_
  split
  · exact h.closeSwath _
  · exact h.of_moves (.raise _ _ _ s)

/-- A frame for the tracker is a good frame that is forwarded. -/
theorem forwarded (h : StandbyLawful s) (f : LinkFrame) : StandbyLawful (forward f (goodFrame s)) :=
  h.of_moves ((goodFrame_moves s).trans (forward_moves f _))

theorem loseLink (h : StandbyLawful s) (cause : Nat) : StandbyLawful (loseLink cause s) :=
  (h.of_moves ((linkUpdate_moves .lost 3 s.link.reception s).trans (.raise _ _ _ _))).closeSwath .aborted

theorem checkFailure (h : StandbyLawful s) (kind : Byte) : StandbyLawful (checkFailure kind s) := by
  have counted (n : Nat) := h.of_moves ((linkUpdate_moves s.link.state n s.link.reception s).trans
    (.raise .linkCheckError .none (n * 256 + kind.toNat) _))
  unfold Machine.checkFailure
  split
  · exact h
  · exact .ite (fun _ => (counted _).loseLink 1) fun _ => counted _

theorem lossOfFraming (h : StandbyLawful s) : StandbyLawful (lossOfFraming s) := by
  have heard := h.of_moves (linkUpdate_moves s.link.state s.link.failures none s)
  unfold Machine.lossOfFraming
  dsimp only
  split
  · exact heard
  · exact heard.loseLink 2

/-! ### Lines and clocks -/

theorem lineStop (h : StandbyLawful s) (l : LineNo) : StandbyLawful (lineStop l s) := by
  refine .ite (fun _ => h.of_lines (setLine_keeps s l _) fun _ m hm => ?_) fun _ => h
  rw [line_setLine]
  split
  · nofun
  · exact hm

/-- R88, R90: in STANDBY the hold is lifted to DRAINING. -/
theorem scanEnd (h : StandbyLawful s) : StandbyLawful (scanEnd s) := by
  refine h.of_lines (scanEnd_keeps s) fun hm l hl => ?_
  by_cases hs : s.history.scanning = true
  · rw [scanEnd_line hs, hm]
    unfold Line.release
    split
    · nofun
    all_goals exact hl
  · rw [scanEnd_idle hs]
    exact hl

theorem tickAll_calm (s : State) : Calm b s (tickAll s) where
  mode := rfl
  held := rfl
  swath hn := congrArg (Option.map _) hn
  schedule := ⟨rfl, rfl⟩
  active := .inr
  named := id
  conditions l := by simp [State.line, tickAll]

/-- R156-R158: in STANDBY nothing is due, and what is pending can only halt the schedule. -/
theorem scheduleStep (h : StandbyLawful s) : StandbyLawful (scheduleStep s) := by
  have halted {g : Schedule} (hr : g.running = false) (ha : g.action ≠ .run) : StandbyLawful { s with schedule := g } :=
    ⟨h.1, h.2.1, fun hm => ⟨(h.2.2 hm).1, (h.2.2 hm).2.1, hr, ha, (h.2.2 hm).2.2.2.2.1, (h.2.2 hm).2.2.2.2.2⟩⟩
  have ticked (hm : s.mgmt.mode ≠ .standby) (g : Schedule) : StandbyLawful (processTable { s with schedule := g }) :=
    have awake : Awake { s with schedule := g } := ⟨hm, h.1, h.2.1⟩
    (awake.of_moves (processTable_moves _)).standbyLawful
  unfold Machine.scheduleStep
  split
  · next ha => exact ticked (fun hm => (h.2.2 hm).2.2.2.1 ha) _
  · exact halted rfl nofun
  · refine .ite (fun hr => ticked (fun hm => ?_) _) fun _ => h
    rw [(h.2.2 hm).2.2.1] at hr
    cases hr

end StandbyLawful

end Sys2Proof.Machine
end


section
/-!
The laws of STANDBY, continued: entry and wake, requests, and every command.
-/

namespace Sys2Proof.Machine

-- In turn: proofs elaborated side by side hold more threads than the check gives memory for.
set_option Elab.async false

variable {b : Bool}

/-! ## Entry to STANDBY and wake -/

theorem auditEnd_not_active {s : State} (h : s.audit.slot ≠ none) (r : Option AbortReason) :
    (auditEnd r s).audit.state.active = false := by
  obtain ⟨i, hi⟩ := Option.ne_none_iff_exists'.1 h
  unfold auditEnd
  rw [hi]
  dsimp only
  rw [(raise_keeps _ _ _ _).get .audit, (serveOwedCommit_keeps i _).get .audit, (withdrawRead_keeps i _).get .audit]
  cases r <;> rfl

/-- R152: the entry leaves no audit active. -/
theorem auditModeAbort_not_active {s : State} (h : AuditNamed s) : (auditModeAbort s).audit.state.active = false := by
  unfold auditModeAbort
  split
  · next ha => exact auditEnd_not_active (h ha) _
  · next ha => simpa using ha

theorem auditModeAbort_moves (s : State) : Moves b s (auditModeAbort s) := .ite (fun _ => auditEnd_moves _ s) fun _ => .refl s

/-- R89: a line that drains, or stops at once, is not RUNNING. -/
theorem Line.drain_not_running (ln : Line) : ln.drain.condition ≠ .running := by
  unfold Line.drain
  split
  · dsimp only
    split <;> nofun
  all_goals simp_all

/-- STANDBY as the mode is just taken: what the laws ask of the blocks that the entry does not stop. -/
structure Entering (s : State) : Prop where
  mode : s.mgmt.mode = .standby
  held : s.mgmt.heldMode = none
  swath : s.tracker.current = none
  named : AuditNamed s

theorem Entering.of_moves {s t : State} (h : Entering s) (hm : Moves b s t) : Entering t :=
  ⟨hm.calm.mode.trans h.mode, hm.calm.held.trans h.held, hm.calm.swath h.swath, hm.calm.named h.named⟩

theorem takeMode_entering {s : State} (h : StandbyLawful s) (hh : s.mgmt.heldMode = none) :
    Entering (takeMode .standby (closeSwath .aborted s)) where
  mode := takeMode_mode _ _
  held := ((takeMode_keeps _ _).get .heldMode).trans (closeSwath_held hh .aborted)
  swath := ((takeMode_keeps _ _).get .openSwath).trans (closeSwath_current .aborted s)
  named := takeMode_named (h.closeSwath .aborted).2.1 _

/-- R189: the audit aborted, the schedule halted and the lines draining complete the entry. -/
theorem Entering.completed {s : State} (h : Entering s) :
    let u := runAll (haltSchedule (auditModeAbort s))
    StandbyLawful { u with lines := tab fun l => (nth u.lines l).drain } := by
  have hu := (h.of_moves (auditModeAbort_moves (b := false) s))
  have hinactive : (haltSchedule (auditModeAbort s)).audit.state.active = false := auditModeAbort_not_active h.named
  have hhalted : Entering (haltSchedule (auditModeAbort s)) := ⟨hu.mode, hu.held, hu.swath, hu.named⟩
  have hrun := runAll_moves (b := false) (haltSchedule (auditModeAbort s))
  have hlast := hhalted.of_moves hrun
  have hstill : (runAll (haltSchedule (auditModeAbort s))).audit.state.active = false := by
    by_contra ha
    have := (hrun.calm.active (by simpa using ha)).resolve_left Bool.false_ne_true
    rw [hinactive] at this
    cases this
  intro u
  refine ⟨?_, hlast.named, fun _ => ⟨hlast.swath, hstill, hrun.calm.schedule.1, ?_, hlast.held, fun l => ?_⟩⟩
  · exact hlast.held.trans_ne nofun
  · exact hrun.calm.schedule.2.trans_ne nofun
  · simp only [State.line, nth_tab]
    exact Line.drain_not_running _

theorem enterStandby_lawful {s : State} (h : StandbyLawful s) (hh : s.mgmt.heldMode = none) : StandbyLawful (enterStandby s) :=
  ((takeMode_entering h hh).of_moves
    ((Moves.of_keeps (b := true) (closeGates_keeps _)).trans (modeTriggers_moves _))).completed

theorem wake_awake {s : State} (h : StandbyLawful s) {m : Mode} (hm : m ≠ .standby) : Awake (wake m s) := by
  have hwoken : Moves true s ((List.finRange 16).foldl wakeSlot s) := .foldl _ _ wakeSlot_moves s
  have htaken : Awake (takeMode m ((List.finRange 16).foldl wakeSlot s)) :=
    ⟨(takeMode_mode m _).trans_ne hm, (((takeMode_keeps m _).get .heldMode).trans hwoken.calm.held).trans_ne h.1,
      takeMode_named (hwoken.calm.named h.2.1) m⟩
  exact (htaken.of_moves (runAll_moves (b := true) _)).of_keeps (linesUpdate_keeps _ _)

/-! ## Requests -/

namespace StandbyLawful
variable {s t : State}

theorem reply (h : StandbyLawful s) (r : Request) (st : Status) (res : List Byte) : StandbyLawful (r.reply st res s) :=
  h.of_keeps (reply_keeps r st res s)

theorem of_replies {r : Request} (h : StandbyLawful s) (hr : Replies false r s t) : StandbyLawful t := by
  obtain ⟨u, st, res, hm, rfl⟩ := hr
  exact (h.of_moves hm).reply r st res

theorem serving (h : StandbyLawful s) {code : Nat} {carry : Request → State → State}
    (hc : ∀ r t, StandbyLawful t → StandbyLawful (carry r t)) : StandbyLawful (serving code carry s) := by
  unfold Machine.serving
  split
  · exact h
  · exact .ite (fun _ => hc _ _ (h.of_keeps (takeRequest_keeps _ s))) fun _ => h

theorem withArgs (h : StandbyLawful s) {ws : List Nat} {carry : List Nat → Request → State → State} {r : Request}
    (hc : ∀ vs, StandbyLawful (carry vs r s)) : StandbyLawful (withArgs ws carry r s) := by
  unfold Machine.withArgs
  split
  · exact hc _
  · exact h.reply r _ _

/-- R141: in STANDBY an AUDIT START is refused. -/
theorem auditStart (h : StandbyLawful s) (vs : List Nat) (r : Request) : StandbyLawful (auditStart vs r s) := by
  unfold Machine.auditStart
  split
  · refine .ite (fun _ => h.reply r _ _) fun hm => ?_
    split
    · exact .ite (fun _ => h.reply r _ _) fun _ => .ite
        (fun _ => (h.of_moves_awake hm (startAudit_moves _ _ _ s)).reply r _ _) fun _ => h.reply r _ _
    · exact h.reply r _ _
  · exact h

/-- A pending action that starts no schedule in STANDBY. -/
theorem setAction (h : StandbyLawful s) {a : PendingAction} (ha : s.mgmt.mode = .standby → a ≠ .run) : StandbyLawful (setAction a s) := by
  obtain ⟨hheld, hnamed, hstandby⟩ := h
  refine ⟨hheld, hnamed, fun hm => ?_⟩
  obtain ⟨hswath, haudit, hrunning, -, hnone, hlines⟩ := hstandby hm
  exact ⟨hswath, haudit, hrunning, ha hm, hnone, hlines⟩

theorem scheduleRun (h : StandbyLawful s) (vs : List Nat) (r : Request) : StandbyLawful (scheduleRun vs r s) :=
  .ite (fun _ => h.reply r _ _) fun hm => (h.setAction fun e => absurd e hm).reply r _ _

theorem scheduleHalt (h : StandbyLawful s) (vs : List Nat) (r : Request) : StandbyLawful (scheduleHalt vs r s) :=
  .ite (fun _ => (h.setAction (a := .halt) fun _ => nofun).reply r _ _) fun _ => (h.setAction (a := .none) fun _ => nofun).reply r _ _

theorem keyRevoke (h : StandbyLawful s) (vs : List Nat) (r : Request) : StandbyLawful (keyRevoke vs r s) := by
  unfold Machine.keyRevoke
  split
  · refine .ite (fun _ => h.reply r _ _) fun _ => ?_
    split
    · exact h.reply r _ _
    · split
      · exact h.reply r _ _
      · exact h.reply r _ _
      · exact ((h.of_keeps (imageUpdate_keeps s _)).of_moves (rejectAll_moves _ _ _)).of_keeps (enterWrite_keeps r _ _ _)
  · exact h

theorem denyAdd (h : StandbyLawful s) (vs : List Nat) (r : Request) : StandbyLawful (denyAdd vs r s) := by
  unfold Machine.denyAdd
  split
  · refine .ite (fun _ => h.reply r _ _) fun _ => .ite (fun _ => h.reply r _ _) fun _ => .ite (fun _ => h.reply r _ _) fun _ => ?_
    exact ((h.of_keeps (denyUpdate_keeps s _)).reply r _ _).of_moves (rejectAll_moves _ _ _)
  · exact h

/-- R188: a change is held outside STANDBY only. -/
theorem changeMode (h : StandbyLawful s) (hh : s.mgmt.heldMode = none) (m : Mode) (now : Bool) : StandbyLawful (changeMode m now s) := by
  unfold Machine.changeMode
  refine .ite (fun _ => enterStandby_lawful h hh) fun hm => .ite (fun _ => (wake_awake h hm).standbyLawful) fun hs => ?_
  refine .ite (fun _ => (applyMode_awake hm h.1 h.2.1).standbyLawful) fun _ => .ite (fun _ => ?_) fun _ => ?_
  · have hclosed := (h.awake hs).closeSwath .aborted
    exact (applyMode_awake hm hclosed.held hclosed.named).standbyLawful
  · exact Awake.standbyLawful ⟨hs, fun e => hm (Option.some.inj e), h.2.1⟩

theorem clearHeldMode (h : StandbyLawful s) : StandbyLawful (clearHeldMode s) := by
  obtain ⟨-, hnamed, hstandby⟩ := h
  refine ⟨nofun, hnamed, fun hm => ?_⟩
  obtain ⟨hswath, haudit, hrunning, haction, -, hlines⟩ := hstandby hm
  exact ⟨hswath, haudit, hrunning, haction, rfl, hlines⟩

theorem modeSet (h : StandbyLawful s) (vs : List Nat) (r : Request) : StandbyLawful (modeSet vs r s) := by
  unfold Machine.modeSet
  split
  · split
    · exact .ite (fun _ => h.clearHeldMode.reply r _ _) fun _ => .ite (fun _ => h.reply r _ _) fun _ => .ite (fun _ => h.reply r _ _)
        fun _ => (h.clearHeldMode.changeMode rfl _ _).reply r _ _
    · exact h.reply r _ _
  · exact h

/-! ## Every command -/

theorem live {f : State → State} (h : StandbyLawful s) (hf : StandbyLawful (f s)) (hx : live f s = .next t) : StandbyLawful t := by
  rw [live_next hx]
  exact .ite (fun _ => hf.of_keeps (settle_keeps _)) fun _ => h

theorem quiet {f : State → State} (h : StandbyLawful s) (hf : StandbyLawful (f s)) (hx : quiet f s = .next t) : StandbyLawful t := by
  rw [quiet_next hx]
  exact .ite (fun _ => hf.of_keeps (kickLane_keeps _)) fun _ => h

theorem transmissionEnd (h : StandbyLawful s) (pins : Pins) : StandbyLawful (transmissionEnd pins s) := by
  unfold Machine.transmissionEnd
  split
  · exact h
  · exact .ite (fun _ => .of_reset rfl rfl) fun _ => h.of_keeps (endTransmission_keeps _ s)

theorem scheduleTick (h : StandbyLawful s) : StandbyLawful (scheduleTick s) :=
  .ite (fun _ => scheduleStep ⟨h.1, h.2.1, h.2.2⟩) fun _ => h

theorem of_resets {c : Instr} (hc : resets c = true) (h : StandbyLawful s) (hx : exec c s = .next t) : StandbyLawful t := by
  rcases resets_cases hc with ⟨pins, rfl | rfl | rfl⟩ | ⟨x, y, rfl⟩
  · cases hx
    exact .of_reset rfl rfl
  · cases hx
    exact .ite (fun _ => .of_reset rfl rfl) fun _ => h
  · exact h.live (h.transmissionEnd pins) hx
  · change execPowerLoss x y s = .next t at hx
    unfold execPowerLoss at hx
    split at hx
    · cases hx
      exact .of_reset rfl rfl
    · cases hx
      exact h

/-- A request that replies, once what it does is in `Moves`. -/
theorem served {code : Nat} {carry : Request → State → State} (h : StandbyLawful s)
    (hc : ∀ r t, Replies false r t (carry r t)) : StandbyLawful (Machine.serving code carry s) :=
  h.serving fun r t ht => ht.of_replies (hc r t)

theorem of_exec {c : Instr} (h : StandbyLawful s) (hx : exec c s = .next t) : StandbyLawful t := by
  cases hr : resets c with
  | true => exact of_resets hr h hx
  | false =>
    by_cases hf : ∀ p ∈ standbyParts, p ∉ mayChange c
    · exact h.of_keeps (exec_keeps c s t hr hx) hf
    · cases c
      case firing f => exact h.live (h.of_moves (firing_moves f s)) hx
      case swathOpen hdr id => exact h.live (f := fun s => _) ((h.forwarded _).trackOpen _) hx
      case swathClose hdr id => exact h.live (f := fun s => _) ((h.forwarded _).trackClose _) hx
      case swathExpiry => exact h.live (f := fun s => _) (.ite (fun _ => h.closeSwath .expired) fun _ => h) hx
      case checkFailure k => exact h.live (h.checkFailure k) hx
      case lossOfFraming => exact h.live h.lossOfFraming hx
      case contactClose i => exact h.live (h.of_moves (contactClose_moves i s)) hx
      case contactOpen i => exact h.live (h.of_moves (contactOpen_moves i s)) hx
      case settlingEnd i => exact h.live (h.of_moves (settlingEnd_moves i s)) hx
      case retirementHandover i => exact h.live (h.of_moves (retirementHandover_moves i s)) hx
      case transactionStart l => exact h.quiet (h.of_moves (transactionStart_moves l s)) hx
      case retryPauseEnd l => exact h.quiet (h.of_moves (retryPauseEnd_moves l s)) hx
      case lineStop l => exact h.quiet (h.lineStop l) hx
      case answerFrame l a => exact h.live (h.of_moves (answerFrame_moves l a s)) hx
      case answerTimeout l => exact h.live (h.of_moves (answerTimeout_moves l s)) hx
      case scanEnd => exact h.live h.scanEnd hx
      case scheduleTick => exact h.live h.scheduleTick hx
      case partTimeIncrement => exact h.quiet (h.of_calm (tickAll_calm s)) hx
      case channelWrite => exact h.live (h.served channelWrite_replies) hx
      case channelLimitsWrite => exact h.live (h.served (withArgs_replies limitsWrite_replies)) hx
      case channelDebit => exact h.live (h.served (withArgs_replies channelDebit_replies)) hx
      case keyRevoke => exact h.live (h.serving fun r _ ht => ht.withArgs fun vs => ht.keyRevoke vs r) hx
      case denyAdd => exact h.live (h.serving fun r _ ht => ht.withArgs fun vs => ht.denyAdd vs r) hx
      case slotRetry => exact h.live (h.served (withArgs_replies slotRetry_replies)) hx
      case slotRechallenge => exact h.live (h.served (withArgs_replies slotRechallenge_replies)) hx
      case auditStart => exact h.live (h.serving fun r _ ht => ht.withArgs fun vs => ht.auditStart vs r) hx
      case auditContinue => exact h.live (h.served (withArgs_replies auditContinueRequest_replies)) hx
      case auditStop => exact h.live (h.served (withArgs_replies auditStop_replies)) hx
      case scheduleRun => exact h.quiet (h.serving fun r _ ht => ht.withArgs fun vs => ht.scheduleRun vs r) hx
      case scheduleHalt => exact h.quiet (h.serving fun r _ ht => ht.withArgs fun vs => ht.scheduleHalt vs r) hx
      case modeSet => exact h.live (h.serving fun r _ ht => ht.withArgs fun vs => ht.modeSet vs r) hx
      all_goals exact absurd (by dsimp only [mayChange]; decide +kernel) hf

end StandbyLawful

/-- Settles O47: a step idles, or runs a command, and every command keeps the laws of STANDBY. -/
theorem stepsKeepStandbyLaws : Obligations.StepsKeepStandbyLaws := by
  unfold Obligations.StepsKeepStandbyLaws
  intro s t h hx
  unfold step at hx
  split at hx
  · cases hx
    exact h
  · next c rest _ => exact StandbyLawful.of_exec (s := { s with pending := rest }) h hx

end Sys2Proof.Machine
end


section
/-!
The bounds of the lists (R49, R56, R65, R84, R85, R111, R169, R185, R191, R192): the operations that `Moves` leaves out, the places promised
to requests, and every command.
-/

namespace Sys2Proof.Machine

-- In turn: proofs elaborated side by side hold more threads than the check gives memory for.
set_option Elab.async false

variable {b : Bool}

/-! ## Lines that change their condition alone -/

/-- The two lines agree in their queues and owed marks. -/
def Line.SamePlaces (x y : Line) : Prop := y.queue = x.queue ∧ y.owed = x.owed

theorem Line.SamePlaces.lawful {x y : Line} (h : x.SamePlaces y) (hx : x.Lawful) : y.Lawful := hx.congr h.1 h.2

theorem Line.drain_places (ln : Line) : ln.SamePlaces ln.drain := by
  unfold Line.drain
  split <;> exact ⟨rfl, rfl⟩

theorem Line.wake_places (ln : Line) : ln.SamePlaces ln.wake := by
  unfold Line.wake
  split <;> exact ⟨rfl, rfl⟩

theorem Line.release_places (m : Mode) (ln : Line) : ln.SamePlaces (ln.release m) := by
  unfold Line.release
  split <;> exact ⟨rfl, rfl⟩

theorem lineStop_tidy (l : LineNo) (s : State) : Tidy s (lineStop l s) :=
  .ite (fun _ => .setLine fun h => h.congr rfl rfl) fun _ => .refl s

theorem scanEnd_tidy (s : State) : Tidy s (scanEnd s) := by
  have scanned : Tidy s ((List.finRange 64).foldl scanPlace s) := .foldl _ _ (fun t n => .of_keeps (scanPlace_keeps t n)) s
  unfold scanEnd
  refine .ite (fun _ => ?_) fun _ => .refl s
  generalize (List.finRange 64).foldl scanPlace s = u at scanned ⊢
  have unscanning : Tidy u { u with history := { u.history with scanning := false } } := fun _ h => h
  exact (scanned.trans unscanning).trans (.setLines fun l => (Line.release_places _ _).lawful)

theorem tickAll_tidy (s : State) : Tidy s (tickAll s) := by
  refine .trans (t := { s with lines := tab fun l => { nth s.lines l with flight := (nth s.lines l).flight.map Flight.tick } }) ?_ ?_
  · exact .setLines fun l h => h.congr rfl rfl
  · exact fun _ h => h

/-! ## Modes and swaths -/

theorem takeMode_tidy (m : Mode) (s : State) : Tidy s (takeMode m s) := by
  have taken : Tidy s { s with mgmt := { s.mgmt with mode := m } } := fun _ h => h
  exact taken.trans (.raise _ _ _ _)

theorem applyMode_tidy (m : Mode) (s : State) : Tidy s (applyMode m s) :=
  (takeMode_tidy m s).trans (applyMode_moves (b := true) m s).tidy

theorem applyHeldMode_tidy (s : State) : Tidy s (applyHeldMode s) := by
  have cleared : Tidy s { s with mgmt := { s.mgmt with heldMode := none } } := fun _ h => h
  unfold applyHeldMode
  split
  · exact .refl s
  · exact .ite (fun _ => cleared) fun _ => cleared.trans (applyMode_tidy _ _)

theorem closeSwath_tidy (o : SwathOutcome) (s : State) : Tidy s (closeSwath o s) := by
  cases h : s.tracker.current with
  | none =>
    rw [closeSwath_idle h o]
    exact .refl s
  | some w =>
    obtain ⟨u, hu, -, he⟩ := closeSwath_open h o
    rw [he]
    exact (hu true).tidy.trans (applyHeldMode_tidy u)

theorem trackOpen_tidy (id : Nat) (s : State) : Tidy s (trackOpen id s) :=
  .ite (fun _ => .refl s) fun _ => (closeSwath_tidy .cut s).trans (.of_keeps (openSwath_keeps id _))

theorem trackClose_tidy (id : Nat) (s : State) : Tidy s (trackClose id s) := by
  unfold trackClose
  refine .ite (fun _ => .refl s) fun _ => ?_
  split
  · exact closeSwath_tidy _ s
  · exact .raise _ _ _ s

theorem forwarded_tidy (f : LinkFrame) (s : State) : Tidy s (forward f (goodFrame s)) :=
  ((goodFrame_moves (b := true) s).trans (forward_moves f _)).tidy

theorem linkUpdate_tidy (st : LinkState) (n : Nat) (r : Option (List Byte)) (s : State) :
    Tidy s { s with link := { s.link with state := st, failures := n, reception := r } } := fun _ h => h

theorem loseLink_tidy (cause : Nat) (s : State) : Tidy s (loseLink cause s) :=
  ((linkUpdate_tidy .lost 3 s.link.reception s).trans (.raise _ _ _ _)).trans (closeSwath_tidy .aborted _)

theorem checkFailure_tidy (kind : Byte) (s : State) : Tidy s (checkFailure kind s) := by
  have counted (n : Nat) := (linkUpdate_tidy s.link.state n s.link.reception s).trans
    (.raise .linkCheckError .none (n * 256 + kind.toNat) _)
  unfold checkFailure
  split
  · exact .refl s
  · exact .ite (fun _ => (counted _).trans (loseLink_tidy 1 _)) fun _ => counted _

theorem lossOfFraming_tidy (s : State) : Tidy s (lossOfFraming s) := by
  have heard := linkUpdate_tidy s.link.state s.link.failures none s
  unfold lossOfFraming
  dsimp only
  split
  · exact heard
  · exact heard.trans (loseLink_tidy 2 _)

theorem enterStandby_tidy (s : State) : Tidy s (enterStandby s) := by
  have entered (t : State) : Moves true t (auditModeAbort (modeTriggers (closeGates t))) :=
    ((Moves.of_keeps (closeGates_keeps t)).trans (modeTriggers_moves _)).trans (auditModeAbort_moves _)
  have halted (t : State) : Tidy t (haltSchedule t) := fun _ h => h
  unfold enterStandby
  refine .trans ?_ (.setLines fun l => (Line.drain_places _).lawful)
  refine .trans ?_ (runAll_moves (b := true) _).tidy
  exact (((closeSwath_tidy .aborted s).trans (takeMode_tidy _ _)).trans (entered _).tidy).trans (halted _)

theorem wake_tidy (m : Mode) (s : State) : Tidy s (wake m s) := by
  have woken : Moves true s ((List.finRange 16).foldl wakeSlot s) := .foldl _ _ wakeSlot_moves s
  unfold wake
  refine .trans ?_ (.setLines fun l => (Line.wake_places _).lawful)
  exact (woken.tidy.trans (takeMode_tidy m _)).trans (runAll_moves (b := true) _).tidy

theorem changeMode_tidy (m : Mode) (now : Bool) (s : State) : Tidy s (changeMode m now s) :=
  .ite (fun _ => enterStandby_tidy s) fun _ => .ite (fun _ => wake_tidy m s) fun _ => .ite (fun _ => applyMode_tidy m s) fun _ =>
    .ite (fun _ => (closeSwath_tidy .aborted s).trans (applyMode_tidy m _)) fun _ => fun _ h => h

/-! ## The schedule -/

theorem processTable_tidy (g : Schedule) (s : State) : Tidy s (processTable { s with schedule := g }) :=
  .trans (t := { s with schedule := g }) (fun _ h => h) (processTable_moves _).tidy

theorem scheduleStep_tidy (s : State) : Tidy s (scheduleStep s) := by
  unfold scheduleStep
  split
  · exact processTable_tidy _ s
  · exact fun _ h => h
  · exact .ite (fun _ => processTable_tidy _ s) fun _ => .refl s

theorem scheduleTick_tidy (s : State) : Tidy s (scheduleTick s) :=
  .ite (fun _ => .trans (t := { s with schedule := { s.schedule with sinceTick := s.schedule.sinceTick - 10 } })
    (fun _ h => h) (scheduleStep_tidy _)) fun _ => .refl s

/-! ## The link unit -/

/-- `v` holds no frame in its two lists that `u` does not hold. -/
def LinkUnit.Shrinks (u v : LinkUnit) : Prop :=
  v.responses ≤ u.responses ∧ v.headBuf.length ≤ u.headBuf.length ∧
    (u.outgoing.length ≤ u.responses + 1 → v.outgoing.length ≤ v.responses + 1)

namespace LinkUnit.Shrinks
variable {u : LinkUnit}

theorem refl (u : LinkUnit) : u.Shrinks u := ⟨Nat.le_refl _, Nat.le_refl _, id⟩

theorem headTaken {f : LinkFrame} {fs : List LinkFrame} (h : u.headBuf = f :: fs) (lane : Option LaneFrame) (src : Source) :
    u.Shrinks { u with lane := lane, headBuf := fs, lastServed := src } :=
  ⟨Nat.le_refl _, by simp [h], id⟩

theorem ownTaken {o : OutFrame} {os : List OutFrame} (h : u.outgoing = o :: os) (lane : Option LaneFrame) (src : Source) :
    u.Shrinks { u with lane := lane, outgoing := os, lastServed := src } := by
  have hcount : u.responses = os.countP _ + _ := (congrArg _ h).trans List.countP_cons
  refine ⟨Nat.le.intro hcount.symm, Nat.le_refl _, fun hlen => ?_⟩
  rw [h, hcount, List.length_cons] at hlen
  refine Nat.le_trans (Nat.le_of_succ_le_succ hlen) (Nat.add_le_add_left ?_ _)
  cases o <;> simp

/-- R67: the lane takes a frame from one of the two lists. -/
theorem arbitrate (u : LinkUnit) : u.Shrinks u.arbitrate := by
  unfold LinkUnit.arbitrate
  split
  · exact .refl u
  · split
    · exact .refl u
    · next h _ => exact .headTaken h _ _
    · next h => exact .ownTaken h _ _
    · next h _ _ => exact .headTaken h _ _
    · next h _ => exact .ownTaken h _ _

end LinkUnit.Shrinks

theorem kickLane_tidy (s : State) : Tidy s (kickLane s) := by
  obtain ⟨hresp, hbuf, hown⟩ := LinkUnit.Shrinks.arbitrate s.link
  rintro n ⟨⟨hrequests, hpromised, hresponses, houtgoing, hbuffer⟩, hlists⟩
  exact ⟨⟨hrequests, hpromised, Nat.le_trans (Nat.add_le_add_right hresp _) hresponses, hown houtgoing, Nat.le_trans hbuf hbuffer⟩, hlists⟩

theorem settle_tidy (s : State) : Tidy s (settle s) :=
  ((Tidy.of_keeps (reportConditions_keeps s)).trans (.of_keeps (kickHistory_keeps _))).trans (kickLane_tidy _)

end Sys2Proof.Machine
end


section
/-!
The bounds of the lists, continued: requests served and answered, resets, and every command.
-/

namespace Sys2Proof.Machine

-- In turn: proofs elaborated side by side hold more threads than the check gives memory for.
set_option Elab.async false

/-! ## Frames that join a list -/

/-- R64, R56: an upstream frame joins the buffer while it holds less than 4. -/
theorem headStatus_tidy (f : LinkFrame) (s : State) : Tidy s (headStatus f s) := by
  refine .ite (fun hfree => ?_) fun _ => .raise _ _ _ s
  rintro n ⟨⟨hrequests, hpromised, hresponses, houtgoing, -⟩, hlists⟩
  exact ⟨⟨hrequests, hpromised, hresponses, houtgoing, by simpa using hfree⟩, hlists⟩

theorem responses_placeResponse (r : Response) (s : State) : (placeResponse r s).link.responses = s.link.responses + 1 := by
  simp [placeResponse, LinkUnit.responses]

theorem outgoing_placeResponse (r : Response) (s : State) : (placeResponse r s).link.outgoing.length = s.link.outgoing.length + 1 := by
  simp [placeResponse]

/-- R65, R185: a response takes one of the 7 places. -/
theorem Bounds.placeResponse {n : Nat} {s : State} (h : Bounds n s) (hfree : s.link.responses + s.mgmt.promised < 7) (r : Response) :
    Bounds n (placeResponse r s) := by
  obtain ⟨⟨hrequests, hpromised, -, houtgoing, hbuffer⟩, hlists⟩ := h
  refine ⟨⟨hrequests, hpromised, ?_, ?_, hbuffer⟩, hlists⟩
  · rw [responses_placeResponse]
    exact (by omega : s.link.responses + 1 + s.mgmt.promised ≤ 7)
  · rw [responses_placeResponse, outgoing_placeResponse]
    omega

/-- R191. -/
theorem takeManagement_tidy (tag : Byte) (kind : BitVec 16) (args : List Byte) (s : State) : Tidy s (takeManagement tag kind args s) := by
  refine .ite (fun hroom => ?_) fun _ => .ite (fun havailable n h => ?_) fun _ => .raise _ _ _ s
  · rintro n ⟨⟨-, hpromised, hresponses, houtgoing, hbuffer⟩, hlists⟩
    exact ⟨⟨by simpa using hroom, hpromised, hresponses, houtgoing, hbuffer⟩, hlists⟩
  · unfold available at havailable
    exact h.placeResponse (by omega) _

/-! ## A request served and answered -/

/-- `t` holds the answer to a request served in `s`, or a key write that will answer it: one promise less is open. -/
def Fulfils (s t : State) : Prop := ∀ n, Bounds (n + 1) s → Bounds n t

namespace Fulfils
variable {b : Bool} {s t u : State}

theorem after (h1 : Tidy s u) (h2 : Fulfils u t) : Fulfils s t := fun n h => h2 n (h1 (n + 1) h)

theorem before (h1 : Fulfils s u) (h2 : Tidy u t) : Fulfils s t := fun n h => h2 n (h1 n h)

theorem ite {c : Prop} [Decidable c] (h1 : c → Fulfils s t) (h2 : ¬c → Fulfils s u) : Fulfils s (if c then t else u) := by
  split
  · exact h1 ‹_›
  · exact h2 ‹_›

/-- R192: the response takes the place promised to it. -/
theorem respond (tag : Byte) (kind : BitVec 16) (st : Status) (res : List Byte) (s : State) : Fulfils s (respond tag kind st res s) := by
  rintro n ⟨⟨hrequests, hpromised, hresponses, houtgoing, hbuffer⟩, hlists⟩
  have released : Bounds n { s with mgmt := { s.mgmt with promised := s.mgmt.promised - 1 } } :=
    ⟨⟨hrequests, by dsimp only; omega, by dsimp only; omega, houtgoing, hbuffer⟩, hlists⟩
  exact released.placeResponse (by dsimp only; omega) _

theorem reply (r : Request) (st : Status) (res : List Byte) (s : State) : Fulfils s (r.reply st res s) := respond _ _ st res s

theorem of_replies {r : Request} (h : Replies b r s t) : Fulfils s t := by
  obtain ⟨u, st, res, hm, rfl⟩ := h
  exact after hm.tidy (reply r st res u)

theorem keyWrites_advance (k : KeyStore) : keyWrites k.advance = keyWrites k := by
  unfold KeyStore.advance
  split
  · next hidle hwaiting => simp [keyWrites, hidle, hwaiting, Nat.add_comm]
  · rfl

theorem keyWrites_enter (k : KeyStore) (w : KeyWrite) : keyWrites (k.enter w) = keyWrites k + 1 := by
  unfold KeyStore.enter
  rw [keyWrites_advance]
  simp [keyWrites, Nat.add_assoc]

/-- R107-R109: a key write keeps the promise made to its request. -/
theorem enterWrite (r : Request) (k : KeyNo) (e : KeyEntry) (s : State) : Fulfils s (enterWrite r k e s) := by
  rintro n ⟨⟨hrequests, hpromised, hplaces⟩, hlists⟩
  refine ⟨⟨hrequests, ?_, hplaces⟩, hlists⟩
  unfold Machine.enterWrite
  rw [keyWrites_enter]
  exact (by omega : s.mgmt.promised = keyWrites s.keys + 1 + n)

end Fulfils

/-- R107-R109: the end of a key write answers its request. -/
theorem keyWriteEnd_tidy (s : State) : Tidy s (keyWriteEnd s) := by
  unfold keyWriteEnd
  split
  · next w hcurrent =>
    rintro n ⟨⟨hrequests, hpromised, hplaces⟩, hlists⟩
    refine Fulfils.respond _ _ _ _ _ n ⟨⟨hrequests, ?_, hplaces⟩, hlists⟩
    have hwrites : keyWrites s.keys = s.keys.waiting.length + 1 := by simp [keyWrites, hcurrent, Nat.add_comm]
    rw [Fulfils.keyWrites_advance]
    simp only [keyWrites, Option.toList_none, List.length_nil]
    omega
  · exact .refl s

/-- R192: a request is served only when a place can be promised to it. -/
theorem Bounds.takeRequest {n : Nat} {s : State} {r : Request} {rest : List Request} (h : Bounds n s) (hq : s.mgmt.queue = r :: rest)
    (hs : canServe s = true) : Bounds (n + 1) (takeRequest rest s) := by
  have havailable : 2 ≤ available s := by
    unfold canServe at hs
    exact of_decide_eq_true (Bool.and_eq_true_iff.1 hs).1
  unfold available at havailable
  obtain ⟨⟨hrequests, hpromised, hresponses, houtgoing, hbuffer⟩, hlists⟩ := h
  rw [hq, List.length_cons] at hrequests
  refine ⟨⟨Nat.le_of_succ_le hrequests, ?_, ?_, houtgoing, hbuffer⟩, hlists⟩
  · exact congrArg (· + 1) hpromised
  · exact (by omega : s.link.responses + (s.mgmt.promised + 1) ≤ 7)

theorem serving_tidy {code : Nat} {carry : Request → State → State} (hc : ∀ r s, Fulfils s (carry r s)) (s : State) :
    Tidy s (serving code carry s) := by
  unfold serving
  split
  · exact .refl s
  · next hq => exact .ite (fun hs n h => hc _ _ n (h.takeRequest hq hs.2)) fun _ => .refl s

theorem unknownRequest_tidy (s : State) : Tidy s (unknownRequest s) := by
  unfold unknownRequest
  split
  · exact .refl s
  · next hq => exact .ite (fun hs n h => Fulfils.reply _ _ _ _ n (h.takeRequest hq hs.2)) fun _ => .refl s

theorem withArgs_fulfils {ws : List Nat} {k : Nat} {carry : List Nat → Request → State → State}
    (h : ∀ (r : Request) (s : State) (vs : List Nat), vs.length = k → Fulfils s (carry vs r s)) (r : Request) (s : State)
    (hk : ws.length = k := by rfl) : Fulfils s (withArgs ws carry r s) := by
  unfold withArgs
  split
  · next vs hvs => exact h r s vs ((fields_length hvs).trans hk)
  · exact .reply r _ _ s

/-- A request that replies, once what it does is in `Moves`. -/
theorem replying_tidy {code : Nat} {carry : Request → State → State} (hc : ∀ r s, Replies true r s (carry r s)) (s : State) :
    Tidy s (serving code carry s) :=
  serving_tidy (fun r s => .of_replies (hc r s)) s

/-! ## Keys and deny list -/

theorem keyLoad_fulfils (r : Request) (s : State) : Fulfils s (keyLoad r s) := by
  unfold keyLoad
  split
  · exact .reply r _ _ s
  · refine .ite (fun _ => .reply r _ _ s) fun _ => ?_
    split
    · exact .reply r _ _ s
    · refine .ite (fun _ => .reply r _ _ s) fun _ => ?_
      split
      · exact .reply r _ _ s
      · exact .ite (fun _ => .reply r _ _ s) fun _ => .enterWrite r _ _ s
      · exact .enterWrite r _ _ s

theorem keyRevoke_fulfils (r : Request) (s : State) : ∀ vs : List Nat, vs.length = 1 → Fulfils s (keyRevoke vs r s)
  | [_], _ => by
    unfold keyRevoke
    refine .ite (fun _ => .reply r _ _ s) fun _ => ?_
    split
    · exact .reply r _ _ s
    · split
      · exact .reply r _ _ s
      · exact .reply r _ _ s
      · exact .after ((Tidy.of_keeps (imageUpdate_keeps s _)).trans (rejectAll_moves (b := true) _ _ _).tidy) (.enterWrite r _ _ _)

/-- R111: a range joins the deny list while it holds less than 32. -/
theorem denyAdd_fulfils (r : Request) (s : State) : ∀ vs : List Nat, vs.length = 2 → Fulfils s (denyAdd vs r s)
  | [first, last], _ => by
    unfold denyAdd
    refine .ite (fun _ => .reply r _ _ s) fun _ => .ite (fun _ => .reply r _ _ s) fun _ => .ite (fun _ => .reply r _ _ s) fun hfull => ?_
    have added : Tidy s { s with deny := s.deny ++ [{ first, last }] } := .setDeny fun _ => by
      rw [List.length_append, List.length_singleton]
      omega
    exact .before (.after added (.reply r _ _ _)) (rejectAll_moves (b := true) _ _ _).tidy

/-! ## Schedule and mode -/

theorem setAction_tidy (a : PendingAction) (s : State) : Tidy s (setAction a s) := fun _ h => h

theorem scheduleRun_fulfils (r : Request) (s : State) (vs : List Nat) (_ : vs.length = 0) : Fulfils s (scheduleRun vs r s) :=
  .ite (fun _ => .reply r _ _ s) fun _ => .after (setAction_tidy _ s) (.reply r _ _ _)

theorem scheduleHalt_fulfils (r : Request) (s : State) (vs : List Nat) (_ : vs.length = 0) : Fulfils s (scheduleHalt vs r s) :=
  .ite (fun _ => .after (setAction_tidy _ s) (.reply r _ _ _)) fun _ => .after (setAction_tidy _ s) (.reply r _ _ _)

theorem modeSet_fulfils (r : Request) (s : State) : ∀ vs : List Nat, vs.length = 2 → Fulfils s (modeSet vs r s)
  | [_, _], _ => by
    have cleared : Tidy s (clearHeldMode s) := fun _ h => h
    unfold modeSet
    dsimp only
    split
    · exact .ite (fun _ => .after cleared (.reply r _ _ _)) fun _ => .ite (fun _ => .reply r _ _ s) fun _ =>
        .ite (fun _ => .reply r _ _ s) fun _ => .after (cleared.trans (changeMode_tidy _ _ _)) (.reply r _ _ _)
    · exact .reply r _ _ s

/-! ## Resets -/

/-- A line that holds nothing. -/
theorem Line.fresh_lawful : ({} : Line).Lawful := .of_no_marks (Nat.zero_le _) (no_marks_of_nextOwed_none (by decide))

/-- After a reset every bounded list is empty, whatever non-volatile state is kept. -/
theorem Bounds.of_reset {s : State} (hm : s.mgmt = State.reset.mgmt) (hk : keyWrites s.keys = 0) (hl : s.link.outgoing = [] ∧ s.link.headBuf = [])
    (he : s.events = State.reset.events) (ht : s.tracker = State.reset.tracker) (hd : s.deny = [])
    (hlines : s.lines = State.reset.lines) : Bounds 0 s := by
  have hresponses : s.link.responses = 0 := by simp [LinkUnit.responses, hl.1]
  refine ⟨⟨?_, ?_, ?_, ?_, ?_⟩, ?_, ?_, ?_, fun l => ?_⟩
  · rw [hm]; decide
  · rw [hm, hk]; rfl
  · rw [hm, hresponses]; decide
  · rw [hl.1]; exact Nat.zero_le _
  · rw [hl.2]; exact Nat.zero_le _
  · rw [he]; decide
  · rw [ht]; decide
  · rw [hd]; exact Nat.zero_le _
  · unfold State.line
    rw [hlines]
    exact (congrArg Line.Lawful (nth_fill ({} : Line) l)).mpr Line.fresh_lawful

theorem transmissionEnd_bounds {s : State} (h : Bounds 0 s) (pins : Pins) : Bounds 0 (transmissionEnd pins s) := by
  unfold transmissionEnd
  split
  · exact h
  · dsimp only
    split
    · exact .of_reset rfl rfl ⟨rfl, rfl⟩ rfl rfl rfl rfl
    · exact (Tidy.of_keeps (endTransmission_keeps _ s)) 0 h

/-! ## Every command -/

section
variable {s t : State} {f : State → State}

theorem live_tidy (hf : Tidy s (f s)) (hx : live f s = .next t) : Tidy s t := by
  rw [live_next hx]
  exact .ite (fun _ => hf.trans (settle_tidy _)) fun _ => .refl s

theorem quiet_tidy (hf : Tidy s (f s)) (hx : quiet f s = .next t) : Tidy s t := by
  rw [quiet_next hx]
  exact .ite (fun _ => hf.trans (kickLane_tidy _)) fun _ => .refl s

end

theorem Bounds.of_resets {c : Instr} {s t : State} (hc : resets c = true) (h : Bounds 0 s) (hx : exec c s = .next t) : Bounds 0 t := by
  rcases resets_cases hc with ⟨pins, rfl | rfl | rfl⟩ | ⟨x, y, rfl⟩
  · cases hx
    exact .of_reset rfl rfl ⟨rfl, rfl⟩ rfl rfl rfl rfl
  · cases hx
    split
    · exact .of_reset rfl rfl ⟨rfl, rfl⟩ rfl rfl rfl rfl
    · exact h
  · rw [live_next hx]
    split
    · exact settle_tidy _ 0 (transmissionEnd_bounds h pins)
    · exact h
  · change execPowerLoss x y s = .next t at hx
    unfold execPowerLoss at hx
    split at hx
    · cases hx
      exact .of_reset rfl rfl ⟨rfl, rfl⟩ rfl rfl rfl rfl
    · cases hx
      exact h

/-- The commands other than resets and requests of a kind. -/
theorem exec_tidy_of_no_code {c : Instr} {s t : State} (hc : resets c = false ∧ requestCode c = none) (hx : exec c s = .next t) :
    Tidy s t := by
  cases c
  case firing f => exact live_tidy (firing_moves (b := true) f s).tidy hx
  case swathOpen hdr id => exact live_tidy (f := fun s => _) ((forwarded_tidy _ s).trans (trackOpen_tidy _ _)) hx
  case swathClose hdr id => exact live_tidy (f := fun s => _) ((forwarded_tidy _ s).trans (trackClose_tidy _ _)) hx
  case swathExpiry => exact live_tidy (f := fun s => _) (.ite (fun _ => closeSwath_tidy .expired s) fun _ => .refl s) hx
  case headControl f => exact live_tidy (f := fun s => _) (otherFrame_moves (b := true) f s).tidy hx
  case management tag kind args => exact live_tidy (f := fun s => _) ((goodFrame_moves (b := true) s).tidy.trans (takeManagement_tidy _ _ _ _)) hx
  case checkFailure k => exact live_tidy (checkFailure_tidy k s) hx
  case lossOfFraming => exact live_tidy (lossOfFraming_tidy s) hx
  case headStatus f => exact quiet_tidy (headStatus_tidy f s) hx
  case returnCheckFailure k => exact quiet_tidy (.raise _ _ _ s) hx
  case headPortFramingLoss => exact quiet_tidy (.refl s) hx
  case indicatorTimerExpiry i => exact quiet_tidy (.of_keeps (timerExpiry_keeps i s)) hx
  case blinkPhase i => exact quiet_tidy (.of_keeps (blinkPhase_keeps i s)) hx
  case contactClose i => exact live_tidy (contactClose_moves (b := true) i s).tidy hx
  case contactOpen i => exact live_tidy (contactOpen_moves (b := true) i s).tidy hx
  case settlingEnd i => exact live_tidy (settlingEnd_moves (b := true) i s).tidy hx
  case retirementHandover i => exact live_tidy (retirementHandover_moves (b := true) i s).tidy hx
  case transactionStart l => exact quiet_tidy (transactionStart_moves (b := true) l s).tidy hx
  case retryPauseEnd l => exact quiet_tidy (retryPauseEnd_moves (b := true) l s).tidy hx
  case lineStop l => exact quiet_tidy (lineStop_tidy l s) hx
  case answerFrame l a => exact live_tidy (answerFrame_moves (b := true) l a s).tidy hx
  case answerTimeout l => exact live_tidy (answerTimeout_moves (b := true) l s).tidy hx
  case scanEnd => exact live_tidy (scanEnd_tidy s) hx
  case historyWriteEnd => exact live_tidy (.of_keeps (historyWriteEnd_keeps s)) hx
  case keyWriteEnd => exact quiet_tidy (keyWriteEnd_tidy s) hx
  case scheduleTick => exact live_tidy (scheduleTick_tidy s) hx
  case partTimeIncrement => exact quiet_tidy (tickAll_tidy s) hx
  case unknownRequest => exact quiet_tidy (unknownRequest_tidy s) hx
  all_goals simp [resets, requestCode] at hc

/-- The requests, each with its code (R70). -/
theorem exec_tidy_of_code {c : Instr} {s t : State} {n : Nat} (hq : requestCode c = some n) (hx : exec c s = .next t) : Tidy s t := by
  cases c
  case channelWrite => exact live_tidy (replying_tidy channelWrite_replies s) hx
  case channelLimitsWrite => exact live_tidy (replying_tidy (withArgs_replies limitsWrite_replies) s) hx
  case channelRead => exact quiet_tidy (replying_tidy (withArgs_replies channelRead_replies) s) hx
  case headMapWrite => exact quiet_tidy (replying_tidy headMapWrite_replies s) hx
  case headMapRead => exact quiet_tidy (replying_tidy (withArgs_replies headMapRead_replies) s) hx
  case volumeWrite => exact quiet_tidy (replying_tidy (withArgs_replies volumeWrite_replies) s) hx
  case volumeRead => exact quiet_tidy (replying_tidy (withArgs_replies volumeRead_replies) s) hx
  case channelCountersClear => exact live_tidy (replying_tidy (withArgs_replies countersClear_replies) s) hx
  case channelDebit => exact live_tidy (replying_tidy (withArgs_replies channelDebit_replies) s) hx
  case swathLimitWrite => exact quiet_tidy (replying_tidy (withArgs_replies swathLimitWrite_replies) s) hx
  case swathRead => exact quiet_tidy (replying_tidy (withArgs_replies swathRead_replies) s) hx
  case lineRead => exact quiet_tidy (replying_tidy (withArgs_replies lineRead_replies) s) hx
  case keyLoad => exact quiet_tidy (serving_tidy keyLoad_fulfils s) hx
  case keyRevoke => exact live_tidy (serving_tidy (withArgs_fulfils keyRevoke_fulfils) s) hx
  case keyStatus => exact quiet_tidy (replying_tidy (withArgs_replies keyStatus_replies) s) hx
  case denyAdd => exact live_tidy (serving_tidy (withArgs_fulfils denyAdd_fulfils) s) hx
  case denyRemove => exact quiet_tidy (replying_tidy (withArgs_replies denyRemove_replies) s) hx
  case denyRead => exact quiet_tidy (replying_tidy (withArgs_replies denyRead_replies) s) hx
  case slotRead => exact quiet_tidy (replying_tidy (withArgs_replies slotRead_replies) s) hx
  case slotRetry => exact live_tidy (replying_tidy (withArgs_replies slotRetry_replies) s) hx
  case slotRechallenge => exact live_tidy (replying_tidy (withArgs_replies slotRechallenge_replies) s) hx
  case testWriteArm => exact quiet_tidy (replying_tidy (withArgs_replies testWriteArm_replies) s) hx
  case historyRead => exact quiet_tidy (replying_tidy (withArgs_replies historyRead_replies) s) hx
  case historyErase => exact live_tidy (replying_tidy (withArgs_replies historyErase_replies) s) hx
  case auditStart => exact live_tidy (replying_tidy (withArgs_replies auditStart_replies) s) hx
  case auditContinue => exact live_tidy (replying_tidy (withArgs_replies auditContinueRequest_replies) s) hx
  case auditStop => exact live_tidy (replying_tidy (withArgs_replies auditStop_replies) s) hx
  case auditRead => exact quiet_tidy (replying_tidy (withArgs_replies auditRead_replies) s) hx
  case scheduleRun => exact quiet_tidy (serving_tidy (withArgs_fulfils scheduleRun_fulfils) s) hx
  case scheduleHalt => exact quiet_tidy (serving_tidy (withArgs_fulfils scheduleHalt_fulfils) s) hx
  case scheduleWrite => exact quiet_tidy (replying_tidy (withArgs_replies scheduleWrite_replies) s) hx
  case scheduleRead => exact quiet_tidy (replying_tidy (withArgs_replies scheduleRead_replies) s) hx
  case eventRead => exact quiet_tidy (replying_tidy (withArgs_replies eventRead_replies) s) hx
  case eventInsert => exact quiet_tidy (replying_tidy (withArgs_replies eventInsert_replies) s) hx
  case routeWrite => exact quiet_tidy (replying_tidy (withArgs_replies routeWrite_replies) s) hx
  case routeRead => exact quiet_tidy (replying_tidy (withArgs_replies routeRead_replies) s) hx
  case conditionRead => exact quiet_tidy (replying_tidy (withArgs_replies conditionRead_replies) s) hx
  case indicatorWrite => exact quiet_tidy (replying_tidy indicatorWrite_replies s) hx
  case indicatorRelease => exact quiet_tidy (replying_tidy (withArgs_replies indicatorRelease_replies) s) hx
  case indicatorRead => exact quiet_tidy (replying_tidy (withArgs_replies indicatorRead_replies) s) hx
  case modeSet => exact live_tidy (serving_tidy (withArgs_fulfils modeSet_fulfils) s) hx
  case statusRead => exact quiet_tidy (replying_tidy (withArgs_replies statusRead_replies) s) hx
  case timeSet => exact quiet_tidy (replying_tidy (withArgs_replies timeSet_replies) s) hx
  case partReset => exact quiet_tidy (replying_tidy (withArgs_replies partReset_replies) s) hx
  all_goals cases hq

theorem Bounds.of_exec {c : Instr} {s t : State} (h : Bounds 0 s) (hx : exec c s = .next t) : Bounds 0 t := by
  cases hr : resets c with
  | true => exact of_resets hr h hx
  | false =>
    cases hq : requestCode c with
    | some n => exact exec_tidy_of_code hq hx 0 h
    | none => exact exec_tidy_of_no_code ⟨hr, hq⟩ hx 0 h

/-- Settles O55: a step idles, or runs a command, and every command keeps the bounds of the lists. -/
theorem stepsKeepTheQueueBounds : Obligations.StepsKeepTheQueueBounds := by
  unfold Obligations.StepsKeepTheQueueBounds
  intro s t hplaces hlists hx
  unfold step at hx
  split at hx
  · cases hx
    exact ⟨hplaces, hlists⟩
  · next c rest _ => exact bounds_zero_iff.1 (Bounds.of_exec (s := { s with pending := rest }) (bounds_zero_iff.2 ⟨hplaces, hlists⟩) hx)

end Sys2Proof.Machine
end


section
/-!
A SWATH_CLOSE with no swath open (R44, R45), and one millisecond of the part's clock (R185, R39, R82, R156, R180, R181).
-/

namespace Sys2Proof.Machine

-- In turn: proofs elaborated side by side hold more threads than the check gives memory for.
set_option Elab.async false

/-! ## A stray SWATH_CLOSE -/

theorem Tracker.eq_of_same {s t : State} (hcurrent : Part.openSwath.same s t) (hring : Part.swathRing.same s t)
    (hlimit : Part.swathLimit.same s t) : t.tracker = s.tracker := by
  obtain ⟨hrecords, hcloses⟩ := hring
  obtain ⟨hnow, hheld⟩ := hlimit
  exact (Tracker.mk.injEq ..).mpr ⟨hcurrent, hrecords, hcloses, hnow, hheld⟩

theorem settle_tracker (s : State) : (settle s).tracker = s.tracker :=
  Tracker.eq_of_same ((settle_keeps s).get .openSwath) ((settle_keeps s).get .swathRing) ((settle_keeps s).get .swathLimit)

/-- R45: with no swath open a close in a mode other than STANDBY is reported and does nothing else. -/
theorem trackClose_stray {s : State} (hm : s.mgmt.mode ≠ .standby) (hc : s.tracker.current = none) (id : Nat) :
    trackClose id s = raise .swathIrregular .none (5 * 65536 + id) s := by
  unfold trackClose
  rw [if_neg hm, hc]

theorem settle_trackClose_stray {s : State} (hm : s.mgmt.mode ≠ .standby) (hc : s.tracker.current = none) (id : Nat) :
    let t := settle (trackClose id s)
    t.link.headOut = s.link.headOut ∧ t.tracker = s.tracker ∧ t.events.queue = queueWith s .swathIrregular .none (5 * 65536 + id) ∧
      Keeps (Foot.raise ++ Foot.settle) s t := by
  have raised := raise_keeps .swathIrregular .none (5 * 65536 + id) s
  rw [trackClose_stray hm hc]
  refine ⟨?_, ?_, ?_, raised.mono.trans (settle_keeps _).mono⟩
  · rw [settle_headOut, raised.get .headOut]
  · rw [settle_tracker, raise_tracker]
  · rw [settle_queue, raise_queue]

/-- Settles O14: the frame is forwarded as every good frame is, and the tracker reports the close. -/
theorem strayCloseChangesNoSwath : Obligations.StrayCloseChangesNoSwath := by
  unfold Obligations.StrayCloseChangesNoSwath
  intro s hdr id hp hm hc
  have heard : Keeps (.headOut :: Foot.heard) s (forward (swathFrame 0x12#8 hdr id) (goodFrame s)) :=
    (goodFrame_keeps s).mono.trans (forward_keeps _ _).mono
  obtain ⟨hout, htracker, hqueue, hkeeps⟩ := settle_trackClose_stray ((heard.get .mode).trans_ne hm) ((heard.get .openSwath).trans hc) id.toNat
  refine ⟨_, live_powered (f := fun s => trackClose id.toNat (forward (swathFrame 0x12#8 hdr id) (goodFrame s))) hp, ?_⟩
  refine ⟨hout.trans ?_, htracker.trans (goodFrame_tracker s), hqueue.trans (queueWith_congr rfl rfl ..), heard.mono.trans hkeeps.mono⟩
  exact congrArg (· ++ [_]) (goodFrame_headOut s)

/-! ## One millisecond -/

/-- R180, R181: the delay runs; the blink phase runs of an ACTIVE indicator whose drive blinks. -/
theorem Indicator.tick_eq (d : Indicator) :
    d.tick =
      { d with
        timer := d.timer.map (fun n => n - 1),
        blinkMs := if d.fields.drive ≠ .solid ∧ d.active = true then d.blinkMs + 1 else d.blinkMs } := by
  unfold Indicator.tick countDown
  cases hd : d.fields.drive with
  | solid => simp
  | blink p => cases ha : d.active <;> simp

theorem Flight.tick_awaiting {fl : Flight} {n : Nat} (h : fl.phase = .awaiting n) : fl.tick = { fl with phase := .awaiting (n - 1) } := by
  unfold Flight.tick
  rw [h]

theorem Flight.tick_pausing {fl : Flight} {n : Nat} (h : fl.phase = .pausing n) : fl.tick = { fl with phase := .pausing (n - 1) } := by
  unfold Flight.tick
  rw [h]

theorem tickAll_line (s : State) (l : LineNo) : (tickAll s).line l = { s.line l with flight := (s.line l).flight.map Flight.tick } :=
  nth_tab _ l

theorem kickLane_line (s : State) (l : LineNo) : (kickLane s).line l = s.line l := rfl

/-- Settles O35: the clock's own counts, then the return lane, which touches none of them. -/
theorem partTimeRuns : Obligations.PartTimeRuns := by
  unfold Obligations.PartTimeRuns
  intro s hp
  refine ⟨kickLane (tickAll s), quiet_powered hp, rfl, rfl, rfl, rfl, fun i => nth_tab _ i, fun l => ?_, fun i => ?_, ?_⟩
  · rw [kickLane_line, tickAll_line]
    refine ⟨rfl, rfl, rfl, rfl, fun hidle => congrArg (Option.map Flight.tick) hidle, fun fl n hfl hph => ?_, fun fl n hfl hph => ?_⟩
    · exact (congrArg (Option.map Flight.tick) hfl).trans (congrArg some (Flight.tick_awaiting hph))
    · exact (congrArg (Option.map Flight.tick) hfl).trans (congrArg some (Flight.tick_pausing hph))
  · exact (nth_tab _ i).trans (Indicator.tick_eq _)
  · exact (tickAll_keeps s).mono.trans (kickLane_keeps _).mono

end Sys2Proof.Machine
end

section
/-!
The return lane (R64, R67, R196), other downstream frames (R61-R63) and STATUS READ (R194).
-/

namespace Sys2Proof.Machine

/-! ## STATUS READ (R194) -/

theorem statusRead_answers {s : State} {tag : Byte} {rest : List Request} (hs : Serves s { tag, kind := 42#16, args := [] } rest) :
    exec .statusRead s =
      .next (finish .statusRead (answered tag 42#16 rest .done (encStatus (takeRequest rest s)) s)) := by
  have hx := quiet_served (withArgs [] statusRead) hs rfl
  rw [withArgs_fit _ _ rfl] at hx
  exact hx.trans (congrArg _ (congrArg kickLane (reply_taken tag 42#16 [] rest .done _ s)))

/-- Settles O38: STATUS READ reads the state that has taken the request, and replies. -/
theorem statusReadAnswersTheWhole : Obligations.StatusReadAnswersTheWhole := by
  unfold Obligations.StatusReadAnswersTheWhole
  intro s tag rest hs
  rw [statusRead_answers hs]
  cases hheld : s.mgmt.heldMode <;> simp only [encStatus, takeRequest, hheld] <;> rfl

/-! ## The lane at the end of a step (R67) -/

theorem kickLane_takes {s : State} (h : s.link.lane = none) : LaneTakes s.link (kickLane s).link := LinkUnit.arbitrate_takes h

theorem kickLane_busy {s : State} (h : s.link.lane ≠ none) : kickLane s = s := by
  unfold kickLane
  rw [LinkUnit.arbitrate_busy h]

/-- The choice reads the two sources and the source served last alone. -/
theorem LaneTakes.congr {u u' v : LinkUnit} (h : LaneTakes u v) (hb : u'.headBuf = u.headBuf) (ho : u'.outgoing = u.outgoing)
    (hl : u'.lastServed = u.lastServed) : LaneTakes u' v := by
  unfold LaneTakes at *
  rw [hb, ho, hl]
  exact h

/-- A frame that names no part of the link unit keeps it whole. -/
theorem link_of_keeps {fs : List Part} {s t : State} (h : Keeps fs s t)
    (hl : ∀ p ∈ [Part.linkState, .reception, .bridge, .headBuffer, .outgoing, .lane, .headOut, .laneOut], p ∉ fs := by decide +kernel) :
    t.link = s.link := by
  have hstate := h .linkState (hl _ (by decide))
  have hreception := h .reception (hl _ (by decide))
  have hbridge := h .bridge (hl _ (by decide))
  have hbuffer := h .headBuffer (hl _ (by decide))
  have houtgoing := h .outgoing (hl _ (by decide))
  have hlane := h .lane (hl _ (by decide))
  have hheadOut := h .headOut (hl _ (by decide))
  have hlaneOut := h .laneOut (hl _ (by decide))
  simp only [Part.same] at hstate hreception hbridge hbuffer houtgoing hlane hheadOut hlaneOut
  cases ht : t.link
  cases hs : s.link
  simp_all

/-- Condition reports and history writes leave the link unit alone. -/
theorem settle_link (s : State) : (settle s).link = s.link.arbitrate := by
  have k : Keeps (.historyWrites :: Foot.report) s (kickHistory (reportConditions s)) :=
    (reportConditions_keeps s).mono.trans (kickHistory_keeps _).mono
  rw [settle, kickLane, link_of_keeps k]

/-! ## The part after a reset (R185) -/

/-- A report finds nothing to report where the live values are the records'. -/
theorem reportConditions_of_liveAgree {s : State} (h : LiveAgree s) : reportConditions s = s := by
  obtain ⟨hslots, hchans⟩ := liveAgree_iff.1 h
  have slot (i : SlotNo) : reportSlot s i = s := if_pos (hslots i).symm
  have chan (c : ChannelNo) : reportChannel s c = s := by
    have meter : reportMeter s c = s := if_pos (by rw [hchans c])
    have supply : reportSupply s c = s := if_pos (by dsimp only; rw [hchans c])
    rw [reportChannel, meter, supply]
  have fold {α : Type} (f : State → α → State) (hf : ∀ x, f s x = s) (xs : List α) : xs.foldl f s = s :=
    List.foldlRecOn (motive := (· = s)) xs f rfl fun _ ht x _ => ht ▸ hf x
  rw [reportConditions, fold _ slot, fold _ chan]

theorem resetPart_liveAgree (pins : Pins) (s : State) : LiveAgree (resetPart pins s) := by
  refine liveAgree_iff.2 ⟨fun i => ?_, fun c => ?_⟩
  · have hslot : (resetPart pins s).slot i = if sensed pins i then { state := .settling } else {} := nth_tab _ i
    rw [hslot]
    refine (nth_fill _ i).trans ?_
    split <;> rfl
  · have hchan : (resetPart pins s).chan c = {} := nth_fill _ c
    have hcounter : (resetPart pins s).counter c = {} := nth_fill _ c
    rw [hchan, hcounter]
    exact nth_fill _ c

/-- After a reset the blocks have nothing to do of their own: the live values are true, the scan holds the history writes, and no frame
waits. -/
theorem settle_resetPart (pins : Pins) (s : State) : settle (resetPart pins s) = resetPart pins s := by
  rw [settle, reportConditions_of_liveAgree (resetPart_liveAgree pins s)]
  rfl

theorem completeWrites_keeps (s : State) : Keeps [.keyCells, .keyWrites, .historyCells, .historyWrites] s (completeWrites s) := by
  unfold completeWrites
  cases s.keys.current <;> cases s.history.writing <;>
  · intro p hp
    cases p <;> first
      | exact absurd (by decide) hp | exact rfl | exact ⟨rfl, rfl⟩ | exact ⟨rfl, rfl, rfl⟩ | exact fun _ => rfl
      | exact fun _ => ⟨rfl, rfl⟩

theorem completeWrites_keys (s : State) : (completeWrites s).keys.cells = keysWritten s := by
  unfold completeWrites keysWritten
  cases s.keys.current <;> rfl

theorem completeWrites_history (s : State) : (completeWrites s).history.cells = historyWritten s := by
  unfold completeWrites historyWritten
  cases s.history.writing <;> rfl

/-- A reset leaves the cells as it finds them; what it is taken from may differ from `s` in all that a reset replaces. -/
theorem resetPart_resetFrom (pins : Pins) {fs : List Part} {s u : State} (h : Keeps fs s u)
    (hf : ∀ p ∈ [Part.pending, .headOut, .nonce, .busOut, .freeCount], p ∉ fs := by decide +kernel) :
    ResetFrom pins u.keys.cells u.history.cells s (resetPart pins u) := by
  have same (p : Part) (hp : p ∈ [Part.pending, .headOut, .nonce, .busOut, .freeCount] := by decide) : p.same s u := h p (hf p hp)
  have hpresence (i : SlotNo) : nth (resetPart pins u).presence i =
      if sensed pins i then { closed := true, timer := some 200 } else {} := nth_tab _ i
  have hslot (i : SlotNo) : (resetPart pins u).slot i = if sensed pins i then { state := .settling } else {} := nth_tab _ i
  refine ⟨same .pending, rfl, rfl, rfl, rfl, rfl, rfl, rfl, rfl, rfl, same .headOut, rfl, rfl, rfl, rfl, rfl, rfl, rfl, rfl, rfl, rfl,
    rfl, rfl, fun i hi => ?_, fun i hi => ?_, rfl, rfl, same .nonce, same .busOut, same .freeCount⟩
  all_goals
    rw [hpresence, hslot, sensed, hi]
    exact ⟨rfl, rfl⟩

/-! ## TRANSMISSION_END (R67, R196) -/

theorem transmissionEnd_frees {s : State} {f : LaneFrame} (hlane : s.link.lane = some f)
    (h : s.mgmt.resetPending = false ∨ f.isReset = false) (pins : Pins) : transmissionEnd pins s = endTransmission f s := by
  unfold transmissionEnd
  rw [hlane]
  exact if_neg fun hr => by rcases h with e | e <;> simp [e] at hr

theorem transmissionEnd_resets {s : State} {f : LaneFrame} (hlane : s.link.lane = some f) (hp : s.mgmt.resetPending = true)
    (hf : f.isReset = true) (pins : Pins) : transmissionEnd pins s = resetPart pins (completeWrites (endTransmission f s)) := by
  unfold transmissionEnd
  rw [hlane]
  exact if_pos ⟨hp, hf⟩

theorem endTransmission_resetFrom (pins : Pins) (f : LaneFrame) (s : State) :
    ResetFrom pins (keysWritten s) (historyWritten s) s (resetPart pins (completeWrites (endTransmission f s))) := by
  have h := resetPart_resetFrom pins ((endTransmission_keeps f s).mono.trans (completeWrites_keeps _).mono :
    Keeps [.keyCells, .keyWrites, .historyCells, .historyWrites, .lane, .laneOut] s _)
  rw [completeWrites_keys, completeWrites_history] at h
  exact h

/-- Settles O7: the lane's choice after a transmission, and the reset that waits for the end of PART RESET's response. -/
theorem transmissionEndFreesTheLane : Obligations.TransmissionEndFreesTheLane := by
  unfold Obligations.TransmissionEndFreesTheLane
  refine ⟨fun s pins f hp hlane hreset => ?_, fun s pins tag results hp hreset hlane => ?_⟩
  · refine ⟨_, live_powered (f := transmissionEnd pins) hp, ?_⟩
    rw [transmissionEnd_frees hlane hreset]
    have kept : Keeps (.laneOut :: Foot.settle) s (settle (endTransmission f s)) :=
      (endTransmission_keeps f s).mono.trans (settle_keeps _).mono
    refine ⟨(settle_keeps _).get .laneOut, ?_, kept⟩
    rw [settle_link]
    exact (LinkUnit.arbitrate_takes (u := (endTransmission f s).link) rfl).congr rfl rfl rfl
  · refine ⟨_, live_powered (f := transmissionEnd pins) hp, ?_⟩
    rw [transmissionEnd_resets hlane hreset rfl, settle_resetPart]
    exact ⟨rfl, endTransmission_resetFrom pins _ s⟩

/-! ## Frames on the head port (R64) -/

theorem headStatus_room {s : State} {f : LinkFrame} (h : s.link.headBuf.length < 4) :
    headStatus f s = { s with link := { s.link with headBuf := s.link.headBuf ++ [f] } } := if_pos h

theorem headStatus_full {s : State} {f : LinkFrame} (h : 4 ≤ s.link.headBuf.length) :
    headStatus f s = raise .returnDiscard (sourceSubject (addressOf f.hdr)) (addressOf f.hdr * 256 + f.kind.toNat) s :=
  if_neg (Nat.not_lt.2 h)

theorem sourceSubject_head {a : Nat} {h : HeadNo} (ha : a = h.val) : sourceSubject a = .head h := by
  rw [sourceSubject, asFin_of_val ha]

theorem sourceSubject_other {a : Nat} (ha : 32 ≤ a) : sourceSubject a = .none := by
  rw [sourceSubject, asFin_eq_none ha]

/-- Settles O8: the buffer of the head port, with the lane's choice behind it. -/
theorem returnPortFrames : Obligations.ReturnPortFrames := by
  unfold Obligations.ReturnPortFrames
  refine ⟨fun s f hp => ?_, fun s kind hp => ?_, fun s hp => ?_⟩
  · have hx : exec (.headStatus f) s = .next (kickLane (headStatus f s)) := quiet_powered hp
    refine ⟨_, hx, exec_keeps _ s _ rfl hx, fun hroom => ?_, fun hfull => ?_⟩
    · rw [headStatus_room hroom]
      refine ⟨kickLane_queue _, fun hidle => ?_, fun hbusy => ?_⟩
      · exact kickLane_takes (s := { s with link := { s.link with headBuf := s.link.headBuf ++ [f] } }) hidle
      · exact congrArg (·.link.headBuf)
          (kickLane_busy (s := { s with link := { s.link with headBuf := s.link.headBuf ++ [f] } }) hbusy)
    · rw [headStatus_full hfull]
      refine ⟨fun hbusy => ?_, fun h ha => ?_, fun ha => ?_⟩
      · have hlane := ((raise_keeps .returnDiscard (sourceSubject (addressOf f.hdr)) (addressOf f.hdr * 256 + f.kind.toNat) s).get .lane).1
        rw [kickLane_busy (hlane.trans_ne hbusy)]
        exact (raise_keeps _ _ _ s).get .headBuffer
      · rw [kickLane_queue, raise_queue, sourceSubject_head ha]
      · rw [kickLane_queue, raise_queue, sourceSubject_other ha]
  · have hx : exec (.returnCheckFailure kind) s = .next (kickLane (raise .linkCheckError .none (65536 + kind.toNat) s)) :=
      quiet_powered hp
    exact ⟨_, hx, (kickLane_queue _).trans (raise_queue _ _ _ s), exec_keeps _ s _ rfl hx⟩
  · have hx : exec .headPortFramingLoss s = .next (kickLane s) := quiet_powered (f := id) hp
    exact ⟨_, hx, exec_keeps _ s _ rfl hx⟩

/-! ## Other downstream frames (R61-R63) -/

theorem exec_headControl {s : State} {f : LinkFrame} (hp : s.powered = true) (hw : (Instr.headControl f).wf = true) :
    exec (.headControl f) s = .next (settle (dispatchOther f (goodFrame s))) := by
  refine (live_powered hp).trans ?_
  rw [if_pos hw]

@[simp] theorem goodFrame_bridge (s : State) : (goodFrame s).link.bridge = s.link.bridge := (goodFrame_keeps s).get .bridge

theorem dispatchOther_forwards {s : State} {f : LinkFrame} (ha : addressOf f.hdr ≠ s.link.bridge)
    (hd : ¬(f.kind = 0x10#8 ∧ s.mgmt.mode = .standby)) : dispatchOther f s = forward f s := by
  unfold dispatchOther
  rw [if_neg ha, if_neg ha, if_neg hd, ite_self]

theorem dispatchOther_discards {s : State} {f : LinkFrame} (ha : addressOf f.hdr = s.link.bridge) (hk : f.kind ≠ 0x14#8)
    (hd : ¬(f.kind = 0x10#8 ∧ s.mgmt.mode = .standby)) : dispatchOther f s = raise .managementDiscard .none f.kind.toNat s := by
  unfold dispatchOther
  rw [if_neg hk, if_pos ha, if_neg hd]

theorem dispatchOther_drops {s : State} {f : LinkFrame} (hk : f.kind = 0x10#8) (hm : s.mgmt.mode = .standby) :
    dispatchOther f s = s := by
  have hd : f.kind = 0x10#8 ∧ s.mgmt.mode = .standby := ⟨hk, hm⟩
  unfold dispatchOther
  rw [if_neg (by rw [hk]; decide), if_pos hd, if_pos hd, ite_self]

/-- Settles O15: the frame is heard as every good frame is, then forwarded, discarded or dropped. -/
theorem otherFramesAreForwarded : Obligations.OtherFramesAreForwarded := by
  unfold Obligations.OtherFramesAreForwarded
  refine ⟨fun s f hp hw ha hd => ?_, fun s f hp hw ha hk hd => ?_, fun s f hp hw hk hm => ?_⟩
  all_goals refine ⟨_, exec_headControl hp hw, ?_⟩
  · rw [dispatchOther_forwards (by simpa using ha) (by simpa using hd)]
    refine ⟨?_, settle_queue _, ?_⟩
    · exact (settle_headOut _).trans (congrArg (· ++ [f]) (goodFrame_headOut s))
    · exact ((goodFrame_keeps s).mono.trans (forward_keeps f _).mono).trans (settle_keeps _).mono
  · rw [dispatchOther_discards (by simpa using ha) hk (by simpa using hd)]
    refine ⟨(settle_queue _).trans (raise_queue ..), ?_⟩
    exact ((goodFrame_keeps s).mono.trans (raise_keeps _ _ _ _).mono).trans (settle_keeps _).mono
  · rw [dispatchOther_drops hk (by simpa using hm)]
    exact ⟨settle_queue _, (goodFrame_keeps s).mono.trans (settle_keeps _).mono⟩

end Sys2Proof.Machine
end

section
/-!
Link frames from their bytes (R57, R61, R68, R69).
-/

namespace Sys2Proof.Machine

/-! ## Frames from their wire bytes (R57, R68) -/

theorem be_two (n : Nat) : be 2 n = [BitVec.ofNat 8 (n / 256), BitVec.ofNat 8 n] := by
  simp [be]

/-- R57: a body of good length is at most 2,048 bytes. -/
theorem body_length_of_kindLengthOk {f : LinkFrame} (h : kindLengthOk f = true) : f.body.length ≤ 2048 := by
  unfold kindLengthOk at h
  exact of_decide_eq_true (Bool.and_eq_true_iff.1 h).1

/-- A frame of good length is read back from its bytes: the length bytes cut the body off before the check. -/
theorem ofWire_wire {f : LinkFrame} (h : kindLengthOk f = true) : LinkFrame.ofWire f.wire = some f := by
  have hlen := body_length_of_kindLengthOk h
  have hn : ofBe [BitVec.ofNat 8 (f.body.length / 256), BitVec.ofNat 8 f.body.length] = f.body.length := by
    rw [← be_two]
    exact ofBe_be_of_lt (by omega)
  have hwire : f.wire = f.kind :: f.hdr :: BitVec.ofNat 8 (f.body.length / 256) :: BitVec.ofNat 8 f.body.length ::
      (f.body ++ be 4 (crc32 f.bytes).toNat) := by
    simp [LinkFrame.wire, LinkFrame.bytes, be_two]
  rw [hwire]
  unfold LinkFrame.ofWire
  dsimp only
  rw [hn, List.take_left, List.drop_left]
  exact if_pos ⟨by simp, rfl, h⟩

theorem receiveDownstream_wire {f : LinkFrame} (h : kindLengthOk f = true) (bridge : Nat) :
    receiveDownstream bridge f.wire = commandOf bridge f := by
  rw [receiveDownstream, ofWire_wire h]

/-! ## The commands they stand for (R61, R69) -/

/-- The two bytes of a 16-bit number, put together again. -/
theorem bytes_append (x : BitVec 16) : (BitVec.ofNat 8 (x.toNat / 256) ++ BitVec.ofNat 8 x.toNat : BitVec 16) = x := by
  apply BitVec.eq_of_toNat_eq
  rw [BitVec.toNat_append, ← Nat.shiftLeft_add_eq_or_of_lt (BitVec.isLt _), BitVec.toNat_ofNat, BitVec.toNat_ofNat, Nat.shiftLeft_eq]
  have hx := x.isLt
  omega

/-- R69: the waveform stands in bits 7-6, the nozzle code below it. -/
theorem toNat_waveform_nozzles (w : BitVec 2) (n : BitVec 6) : (w ++ n : Byte).toNat = w.toNat * 64 + n.toNat := by
  rw [BitVec.toNat_append, ← Nat.shiftLeft_add_eq_or_of_lt n.isLt, Nat.shiftLeft_eq]

theorem nozzles_of_byte (w : BitVec 2) (n : BitVec 6) : (w ++ n : Byte).truncate 6 = n := by
  apply BitVec.eq_of_toNat_eq
  have hn := n.isLt
  rw [BitVec.toNat_setWidth, toNat_waveform_nozzles]
  omega

theorem waveform_of_byte (w : BitVec 2) (n : BitVec 6) : ((w ++ n : Byte) >>> 6).truncate 2 = w := by
  apply BitVec.eq_of_toNat_eq
  have hw := w.isLt
  have hn := n.isLt
  rw [BitVec.toNat_setWidth, BitVec.toNat_ushiftRight, Nat.shiftRight_eq_div_pow, toNat_waveform_nozzles]
  omega

theorem nozzles_masked (w : BitVec 2) (n : BitVec 6) : ((w ++ n : Byte) &&& 0x3F#8).toNat = n.toNat := by
  have hn := n.isLt
  have hmask : (0x3F#8).toNat = 2 ^ 6 - 1 := rfl
  rw [BitVec.toNat_and, toNat_waveform_nozzles, hmask, Nat.and_two_pow_sub_one_eq_mod]
  omega

theorem firing_frame_eq (f : FiringFrame) :
    f.frame =
      { kind := 0x10#8, hdr := f.hdr,
        body := (f.waveform ++ f.nozzles) :: BitVec.ofNat 8 (f.line.toNat / 256) :: BitVec.ofNat 8 f.line.toNat :: f.codes } := by
  rw [FiringFrame.frame, be_two]
  rfl

theorem firing_kindLengthOk {f : FiringFrame} (h : f.lengthOk = true) : kindLengthOk f.frame = true := by
  have hcodes : f.codes.length = 16 * (f.nozzles.toNat + 1) := by simpa [FiringFrame.lengthOk] using h
  have hn := f.nozzles.isLt
  rw [firing_frame_eq]
  unfold kindLengthOk bodyOk
  simp only [if_pos, nozzles_masked, List.length_cons, hcodes, Bool.and_eq_true, decide_eq_true_eq, beq_iff_eq]
  omega

theorem ofFrame_frame (f : FiringFrame) : FiringFrame.ofFrame f.frame = some f := by
  rw [firing_frame_eq]
  unfold FiringFrame.ofFrame
  dsimp only
  rw [waveform_of_byte, nozzles_of_byte, bytes_append]

theorem commandOf_firing {f : FiringFrame} (h : addressOf f.hdr < 32) (bridge : Nat) : commandOf bridge f.frame = .firing f := by
  have hc : f.frame.kind = 0x10#8 ∧ addressOf f.frame.hdr < 32 := ⟨rfl, h⟩
  unfold commandOf
  dsimp only
  rw [if_pos hc, ofFrame_frame]

theorem ofNat_ofBe_two (id : BitVec 16) : BitVec.ofNat 16 (ofBe (be 2 id.toNat)) = id := by
  rw [ofBe_be_of_lt id.isLt, BitVec.ofNat_toNat, BitVec.setWidth_eq]

/-- R70: a request for the part's own address, with its tag and kind code in front of the arguments. -/
def requestFrame (hdr tag : Byte) (kind : BitVec 16) (args : List Byte) : LinkFrame :=
  { kind := 0x14#8, hdr, body := tag :: be 2 kind.toNat ++ args }

theorem commandOf_request {bridge : Nat} {hdr : Byte} (h : addressOf hdr = bridge) (tag : Byte) (kind : BitVec 16) (args : List Byte) :
    commandOf bridge (requestFrame hdr tag kind args) = .management tag kind args := by
  have hc : (requestFrame hdr tag kind args).kind = 0x14#8 ∧ addressOf (requestFrame hdr tag kind args).hdr = bridge := ⟨rfl, h⟩
  have hbody : (requestFrame hdr tag kind args).body =
      tag :: BitVec.ofNat 8 (kind.toNat / 256) :: BitVec.ofNat 8 kind.toNat :: args := by
    rw [requestFrame, be_two]
    rfl
  have hkind (k : Byte) (hk : 0x14#8 ≠ k) : (requestFrame hdr tag kind args).kind ≠ k := hk
  unfold commandOf
  dsimp only
  rw [if_neg (fun e => hkind 0x10#8 (by decide) e.1), if_neg (hkind 0x11#8 (by decide)), if_neg (hkind 0x12#8 (by decide)), if_pos hc,
    hbody]
  dsimp only
  rw [bytes_append]

/-- Settles O60: a frame of good length is read back, and is the command of its kind and address. -/
theorem wireFramesRoundTrip : Obligations.WireFramesRoundTrip := by
  unfold Obligations.WireFramesRoundTrip
  refine ⟨fun f => ofWire_wire, fun bridge f hf ha => ?_, fun bridge hdr id => ⟨?_, ?_⟩, fun bridge hdr tag kind args ha hargs => ?_⟩
  · rw [receiveDownstream_wire (firing_kindLengthOk hf), commandOf_firing ha]
  · rw [receiveDownstream_wire rfl]
    exact congrArg (Instr.swathOpen hdr) (ofNat_ofBe_two id)
  · rw [receiveDownstream_wire rfl]
    exact congrArg (Instr.swathClose hdr) (ofNat_ofBe_two id)
  · have hok : kindLengthOk (requestFrame hdr tag kind args) = true := by
      simp [kindLengthOk, bodyOk, requestFrame]
      omega
    exact (receiveDownstream_wire hok bridge).trans (commandOf_request ha tag kind args)

end Sys2Proof.Machine
end

section
/-!
Requests on events, routes and conditions, TIME SET and PART RESET (R66, R168-R173, R176, R195, R196).
-/

namespace Sys2Proof.Machine

/-! ## An event and its notice (R66, R169, R170) -/

/-- R170: the event asks for a notice: it finds the queue empty, or its route notifies. -/
def AsksNotice (k : EventKind) (s : State) : Prop :=
  ((nth s.events.routes k.idx).queue = true ∧ s.events.queue = []) ∨ (nth s.events.routes k.idx).notify = true

/-- R170: the notice of an event that is the newest of the queue in `t`. -/
def noticeOf (k : EventKind) (a : Subject) (t : State) : Notice :=
  { count := t.events.queue.length, overrun := t.events.overrun, cause := k, subject := a }

theorem asksNotice_iff (k : EventKind) (s : State) :
    (((nth s.events.routes k.idx).queue && s.events.queue.isEmpty) || (nth s.events.routes k.idx).notify) = true ↔ AsksNotice k s := by
  simp [AsksNotice]

theorem raise_link_silent {k : EventKind} {s : State} (h : ¬AsksNotice k s) (a : Subject) (d : Nat) :
    (raise k a d s).link = s.link := by
  unfold raise
  dsimp only
  rw [if_neg ((asksNotice_iff k s).not.2 h)]
  split <;> rfl

theorem raise_link_asking {k : EventKind} {s : State} (h : AsksNotice k s) (a : Subject) (d : Nat) :
    (raise k a d s).link = { s.link with outgoing := placeNotice (noticeOf k a (raise k a d s)) s.link.outgoing } := by
  unfold raise
  dsimp only
  rw [if_pos ((asksNotice_iff k s).2 h)]
  split <;> rfl

/-- R169: the flag is set where the event overwrites. -/
theorem raise_overrun (k : EventKind) (a : Subject) (d : Nat) (s : State) :
    (raise k a d s).events.overrun = true ↔
      s.events.overrun = true ∨ ((nth s.events.routes k.idx).queue = true ∧ 256 ≤ s.events.queue.length) := by
  have hnotice (t : State) (b : Bool) : (if b then requestNotice k a t else t).events = t.events := by cases b <;> rfl
  unfold raise
  dsimp only
  rw [hnotice]
  cases (nth s.events.routes k.idx).queue with
  | false => simp
  | true =>
    by_cases hroom : s.events.queue.length < 256
    · simp [EventUnit.enqueue, hroom]
    · simp [EventUnit.enqueue, hroom, Nat.not_lt.1 hroom]

theorem placeNotice_first {os : List OutFrame} (h : ∀ n, OutFrame.notice n ∉ os) (m : Notice) :
    placeNotice m os = os ++ [.notice m] := by
  induction os with
  | nil => rfl
  | cons o os ih =>
    cases o with
    | notice n => exact absurd (List.mem_cons_self ..) (h n)
    | response r => rw [placeNotice, ih fun n hn => h n (List.mem_cons_of_mem _ hn), List.cons_append]

theorem placeNotice_waiting {before : List OutFrame} (h : ∀ n, OutFrame.notice n ∉ before) (m n : Notice) (after : List OutFrame) :
    placeNotice m (before ++ .notice n :: after) = before ++ .notice m :: after := by
  induction before with
  | nil => rfl
  | cons o os ih =>
    cases o with
    | notice n => exact absurd (List.mem_cons_self ..) (h n)
    | response r => rw [List.cons_append, placeNotice, ih fun n hn => h n (List.mem_cons_of_mem _ hn), List.cons_append]

/-- The own frame that the lane is sending. -/
def sending (s : State) : List OutFrame :=
  match s.link.lane with
  | some (.own o) => [o]
  | some (.head _) | none => []

theorem ownFrames_eq (s : State) : ownFrames s = sending s ++ s.link.outgoing := rfl

theorem ownFrames_raise_silent {k : EventKind} {s : State} (h : ¬AsksNotice k s) (a : Subject) (d : Nat) :
    ownFrames (raise k a d s) = ownFrames s := by
  unfold ownFrames
  rw [raise_link_silent h]

theorem ownFrames_raise_asking {k : EventKind} {s : State} (h : AsksNotice k s) (a : Subject) (d : Nat) :
    ownFrames (raise k a d s) = sending s ++ placeNotice (noticeOf k a (raise k a d s)) s.link.outgoing := by
  rw [ownFrames_eq, sending, raise_link_asking h]
  rfl

/-! ## EVENT READ and EVENT INSERT (R171, R172) -/

theorem asSubject_subject (a : Subject) : asSubject a.typeNo a.no = some a := by
  cases a with
  | none => rfl
  | _ => simp [asSubject, Subject.typeNo, Subject.no, asFin]

theorem asSubject_none {ty n : Nat}
    (h : 5 ≤ ty ∨ (ty = 0 ∧ n ≠ 0) ∨ (ty = 1 ∧ 16 ≤ n) ∨ (ty = 2 ∧ 8 ≤ n) ∨ (ty = 3 ∧ 32 ≤ n) ∨ (ty = 4 ∧ 64 ≤ n)) :
    asSubject ty n = none := by
  rcases h with h | ⟨rfl, h⟩ | ⟨rfl, h⟩ | ⟨rfl, h⟩ | ⟨rfl, h⟩ | ⟨rfl, h⟩
  · obtain ⟨m, rfl⟩ := Nat.exists_eq_add_of_le' h
    rfl
  · obtain ⟨m, rfl⟩ := Nat.exists_eq_succ_of_ne_zero h
    rfl
  all_goals simp [asSubject, asFin_eq_none h]

theorem eventRead_done {n : Nat} (h1 : 1 ≤ n) (h16 : n ≤ 16) (r : Request) (s : State) :
    eventRead [n] r s = r.reply .done (readEvents n s.events)
      { s with events := { s.events with queue := s.events.queue.drop n, overrun := false } } := if_pos ⟨h1, h16⟩

theorem eventRead_bad {n : Nat} (h : n = 0 ∨ 16 < n) (r : Request) (s : State) : eventRead [n] r s = r.reply .badArgument [] s :=
  if_neg (by omega)

theorem eventInsert_done (a : Subject) (d : Nat) (r : Request) (s : State) :
    eventInsert [a.typeNo, a.no, d] r s =
      r.reply .done (be 2 (raise .testEntry a d s).events.queue.length) (raise .testEntry a d s) := by
  rw [eventInsert, asSubject_subject]

theorem eventInsert_bad {ty n : Nat} (h : asSubject ty n = none) (d : Nat) (r : Request) (s : State) :
    eventInsert [ty, n, d] r s = r.reply .badArgument [] s := by
  rw [eventInsert, h]

/-! ## ROUTE WRITE (R173) -/

theorem nth_setRoute_foldl (x : Route) (ks : List (Fin 28)) (s : State) (k : Fin 28) :
    nth (ks.foldl (setRoute x) s).events.routes k = if k ∈ ks then x else nth s.events.routes k := by
  induction ks generalizing s with
  | nil => rfl
  | cons j ks ih =>
    rw [List.foldl_cons, ih]
    by_cases hk : k ∈ ks
    · rw [if_pos hk, if_pos (List.mem_cons_of_mem _ hk)]
    · rw [if_neg hk, setRoute]
      dsimp only
      rw [nth_upd]
      simp only [List.mem_cons, hk, or_false, eq_comm]

/-- A kind number names its kind, and ALL names every one. -/
theorem asKinds_mem {n : Nat} (h : (1 ≤ n ∧ n ≤ 28) ∨ n = 255) :
    ∃ ks, asKinds n = some ks ∧ ∀ k : EventKind, k.idx ∈ ks ↔ n = 255 ∨ n = k.no := by
  by_cases hall : n = 255
  · exact ⟨List.finRange 28, if_pos hall, fun k => by simp [hall]⟩
  · obtain ⟨h1, h28⟩ := h.resolve_right hall
    refine ⟨[⟨n - 1, by omega⟩], ?_, fun k => ?_⟩
    · rw [asKinds, if_neg hall, if_neg (by omega), asFin_of_val (i := ⟨n - 1, by omega⟩) rfl, Option.map_some]
    · rw [List.mem_singleton, Fin.ext_iff, EventKind.no]
      dsimp only
      omega

theorem asKinds_none {n : Nat} (h : n = 0 ∨ (28 < n ∧ n ≠ 255)) : asKinds n = none := by
  rcases h with rfl | ⟨h28, hall⟩
  · rfl
  · rw [asKinds, if_neg hall, if_neg (by omega), asFin_eq_none (by omega), Option.map_none]

theorem asFlag_flagNo (b : Bool) : asFlag (flagNo b) = some b := by cases b <;> rfl

theorem asFlag_none {n : Nat} (h : 2 ≤ n) : asFlag n = none := by
  obtain ⟨m, rfl⟩ := Nat.exists_eq_add_of_le' h
  rfl

theorem routeWrite_done {k : Nat} {ks : List (Fin 28)} (hk : asKinds k = some ks) (q n : Bool) (r : Request) (s : State) :
    routeWrite [k, flagNo q, flagNo n] r s = r.reply .done [] (ks.foldl (setRoute { queue := q, notify := n }) s) := by
  simp only [routeWrite, hk, asFlag_flagNo]

theorem routeWrite_bad {k q n : Nat} (h : asKinds k = none ∨ asFlag q = none ∨ asFlag n = none) (r : Request) (s : State) :
    routeWrite [k, q, n] r s = r.reply .badArgument [] s := by
  unfold routeWrite
  dsimp only
  split
  · next hk hq hn => simp_all
  · rfl

/-! ## CONDITION READ (R176) -/

/-- A mask is the sum of its members' bits. -/
theorem maskNo_eq_sum (n : Nat) (f : Fin n → Bool) :
    maskNo n f = ((List.finRange n).map (fun i => if f i then 2 ^ i.val else 0)).sum := by
  have step (xs : List (Fin n)) (a : Nat) : xs.foldl (fun a i => if f i then a + 2 ^ i.val else a) a =
      a + (xs.map (fun i => if f i then 2 ^ i.val else 0)).sum := by
    induction xs generalizing a with
    | nil => rfl
    | cons i xs ih =>
      rw [List.foldl_cons, ih, List.map_cons, List.sum_cons]
      split <;> omega
  rw [maskNo, step, Nat.zero_add]

theorem conditionRead_live (r : Request) (s : State) : conditionRead [0] r s = r.reply .done (encConditions s.events) s := rfl

theorem conditionRead_reload (r : Request) (s : State) :
    conditionRead [1] r s = r.reply .done (encConditions s.events) (reloadLatches s) := rfl

theorem conditionRead_bad {n : Nat} (h : 2 ≤ n) (r : Request) (s : State) : conditionRead [n] r s = r.reply .badArgument [] s := by
  rw [conditionRead, asFlag_none h]

theorem encConditions_eq (u : EventUnit) :
    encConditions u =
      [SlotConds.present, SlotConds.authentic, SlotConds.low, SlotConds.depleted, SlotConds.rejected, SlotConds.suspect,
        SlotConds.faulted, SlotConds.auditFail].flatMap (fun f =>
          be 2 ((List.finRange 16).map (fun i => if f (nth u.slotLive i) then 2 ^ i.val else 0)).sum ++
          be 2 ((List.finRange 16).map (fun i => if f (nth u.slotLatch i) then 2 ^ i.val else 0)).sum) ++
      [ChannelConds.starved, ChannelConds.overdraw, ChannelConds.switched].flatMap (fun f =>
        be 1 ((List.finRange 8).map (fun c => if f (nth u.channelLive c) then 2 ^ c.val else 0)).sum ++
        be 1 ((List.finRange 8).map (fun c => if f (nth u.channelLatch c) then 2 ^ c.val else 0)).sum) := by
  simp only [encConditions, encSlotCondition, encChannelCondition, maskNo_eq_sum, List.flatMap_cons, List.flatMap_nil,
    SlotConds.value, ChannelConds.value]

/-! ## The requests -/

theorem eventInsert_request {s : State} {tag : Byte} {args : List Byte} {rest : List Request} {a : Subject} {d : Nat}
    (hs : Serves s { tag, kind := 34#16, args } rest) (ha : fields [1, 1, 4] args = some [a.typeNo, a.no, d]) :
    let u := raise .testEntry a d (takeRequest rest s)
    exec .eventInsert s = .next (kickLane (({ tag, kind := 34#16, args } : Request).reply .done (be 2 u.events.queue.length) u)) := by
  have hx := quiet_served (withArgs [1, 1, 4] eventInsert) hs rfl
  rw [withArgs_fit _ _ ha, eventInsert_done] at hx
  exact hx

theorem ownFrames_reply (r : Request) (st : Status) (res : List Byte) (s : State) :
    ownFrames (r.reply st res s) = ownFrames s ++ [.response { tag := r.tag, kind := r.kind, status := st, results := res }] :=
  ownFrames_placeResponse _ _

theorem routeWrite_request {s : State} {tag b x y : Byte} {rest : List Request} {q n : Bool}
    (hs : Serves s { tag, kind := 35#16, args := [b, x, y] } rest) (hx : x.toNat = flagNo q) (hy : y.toNat = flagNo n)
    (hb : (1 ≤ b.toNat ∧ b.toNat ≤ 28) ∨ b = 0xFF#8) :
    ∃ t, exec .routeWrite s = .next t ∧
      (∀ k : EventKind, nth t.events.routes k.idx =
        if b = 0xFF#8 ∨ b.toNat = k.no then { queue := q, notify := n } else nth s.events.routes k.idx) ∧
      lastAnswer t tag 35#16 .done [] := by
  have hall : b = 0xFF#8 ↔ b.toNat = 255 := ⟨fun e => e ▸ rfl, fun e => BitVec.eq_of_toNat_eq e⟩
  obtain ⟨ks, hks, hmem⟩ := asKinds_mem (hb.imp_right hall.1)
  have hfit : fields [1, 1, 1] [b, x, y] = some [b.toNat, flagNo q, flagNo n] := by
    rw [← hx, ← hy]
    simp [fields, ofBe]
  have hrun := quiet_served (withArgs [1, 1, 1] routeWrite) hs rfl
  rw [withArgs_fit _ _ hfit, routeWrite_done hks] at hrun
  refine ⟨_, hrun, fun k => ?_, lastAnswer_kickLane.2 (lastAnswer_reply _ _ _ _ _ _)⟩
  refine (nth_setRoute_foldl _ ks (takeRequest rest s) k.idx).trans ?_
  simp only [hmem, hall]
  rfl

theorem conditionReload_request {s : State} {tag : Byte} {rest : List Request}
    (hs : Serves s { tag, kind := 37#16, args := [1#8] } rest) :
    exec .conditionRead s = .next (kickLane (({ tag, kind := 37#16, args := [1#8] } : Request).reply .done (encConditions s.events)
      (reloadLatches (takeRequest rest s)))) := by
  have hx := quiet_served (withArgs [1] conditionRead) hs rfl
  rw [withArgs_fit _ _ (fields_byte _)] at hx
  exact hx

/-- R176, R178: after a reload every indicator is evaluated over the reloaded latches. -/
theorem nth_reloadLatches (s : State) (i : IndNo) :
    nth (reloadLatches s).indicators i = (nth s.indicators i).evaluate
      { s.events with slotLatch := s.events.slotLive, channelLatch := s.events.channelLive } := nth_tab _ i

/-- Settles O51: the requests on events, routes, conditions and part time, each from its own rule. -/
theorem eventAndTimeRequests : Obligations.EventAndTimeRequests := by
  unfold Obligations.EventAndTimeRequests
  intro slotMask channelMask conditions
  have hconditions (u : EventUnit) : conditions u = encConditions u := (encConditions_eq u).symm
  refine ⟨?_, ?_, ?_, ?_, ?_, ?_, ?_, ?_, ?_, ?_, ?_⟩
  · intro s b h1 h16
    refine carries_of_quiet (carry := withArgs [1] eventRead) rfl rfl rfl fun tag rest => ?_
    rw [withArgs_fit _ _ (fields_byte b), eventRead_done h1 h16, readEvents, encList, List.length_take, List.length_drop]
    rfl
  · intro s b h
    refine carries_of_quiet (carry := withArgs [1] eventRead) rfl rfl rfl fun tag rest => ?_
    rw [withArgs_fit _ _ (fields_byte b), eventRead_bad h]
  · intro s tag args rest a d hs ha route asks
    have hx := eventInsert_request hs ha
    have hasks : asks ↔ AsksNotice .testEntry (takeRequest rest s) := Iff.rfl
    refine ⟨_, hx, ?_, ?_, ?_⟩
    · exact (kickLane_queue _).trans (raise_queue ..)
    · exact raise_overrun .testEntry a d (takeRequest rest s)
    intro notice answer
    refine ⟨fun h => ?_, fun h hnone => ?_, fun h before n after hout hbefore => ⟨sending s, ?_, ?_⟩, ?_, exec_keeps _ s _ rfl hx⟩
    · rw [ownFrames_kickLane, ownFrames_reply, ownFrames_raise_silent (hasks.not.1 h)]
      rfl
    · rw [ownFrames_kickLane, ownFrames_reply, ownFrames_raise_asking (hasks.1 h),
        placeNotice_first (os := (takeRequest rest s).link.outgoing) hnone, ownFrames_eq, List.append_assoc, List.append_assoc,
        List.append_assoc]
      rfl
    · exact ownFrames_eq s
    · rw [ownFrames_kickLane, ownFrames_reply, ownFrames_raise_asking (hasks.1 h)]
      have hwaits : (takeRequest rest s).link.outgoing = before ++ .notice n :: after := hout
      rw [hwaits, placeNotice_waiting hbefore]
      rfl
    · exact lastAnswer_kickLane.2 (lastAnswer_reply _ _ _ _ _ _)
  · intro s args ty n d ha h
    refine carries_of_quiet (carry := withArgs [1, 1, 4] eventInsert) rfl rfl rfl fun tag rest => ?_
    rw [withArgs_fit _ _ ha, eventInsert_bad (asSubject_none h)]
  · intro s b x y h
    refine carries_of_quiet (carry := withArgs [1, 1, 1] routeWrite) rfl rfl rfl fun tag rest => ?_
    have hfit : fields [1, 1, 1] [b, x, y] = some [b.toNat, x.toNat, y.toNat] := by simp [fields, ofBe]
    rw [withArgs_fit _ _ hfit]
    refine routeWrite_bad ?_ _ _
    rcases h with rfl | ⟨h28, hall⟩ | hx | hy
    · exact .inl (asKinds_none (.inl rfl))
    · exact .inl (asKinds_none (.inr ⟨h28, byte_ne_all hall⟩))
    · exact .inr (.inl (asFlag_none hx))
    · exact .inr (.inr (asFlag_none hy))
  · intro s tag b x y rest q n hs hx hy hb
    obtain ⟨t, hrun, hroutes, hans⟩ := routeWrite_request hs hx hy hb
    exact ⟨t, hrun, hroutes, hans, exec_keeps _ s t rfl hrun⟩
  · intro s
    refine carries_of_quiet (carry := withArgs [1] conditionRead) rfl rfl rfl fun tag rest => ?_
    rw [withArgs_fit _ _ (fields_byte _), hconditions]
    exact conditionRead_live _ _
  · intro s tag rest hs
    have hx := conditionReload_request hs
    refine ⟨_, hx, rfl, rfl, fun i => ?_, ?_, exec_keeps _ s _ rfl hx⟩
    · exact (nth_reloadLatches (takeRequest rest s) i).symm ▸ Indicator.evaluate_evaluated _ (nth s.indicators i)
    · rw [hconditions]
      exact lastAnswer_kickLane.2 (lastAnswer_reply _ _ _ _ _ _)
  · intro s b hb
    refine carries_of_quiet (carry := withArgs [1] conditionRead) rfl rfl rfl fun tag rest => ?_
    rw [withArgs_fit _ _ (fields_byte b), conditionRead_bad hb]
  · intro s args n ha
    refine carries_of_quiet (carry := withArgs [6] timeSet) rfl rfl rfl fun tag rest => ?_
    rw [withArgs_fit _ _ ha]
    rfl
  · intro s
    exact carries_of_quiet (carry := withArgs [] partReset) rfl rfl rfl fun tag rest => withArgs_fit _ _ rfl

end Sys2Proof.Machine
end

section
/-!
Big-endian bytes read and written again, and the numbers of enumerated values: what the arguments of INDICATOR WRITE are read by (R70,
log 12).
-/

namespace Sys2Proof.Machine

/-! ## Bytes (04, "Wire and tag formats") -/

theorem ofBe_lt (bs : List Byte) : ofBe bs < 256 ^ bs.length := by
  induction bs with
  | nil => simp [ofBe]
  | cons b bs ih =>
    have hb : b.toNat + 1 ≤ 256 := b.isLt
    calc ofBe (b :: bs) = b.toNat * 256 ^ bs.length + ofBe bs := ofBe_cons b bs
      _ < b.toNat * 256 ^ bs.length + 256 ^ bs.length := Nat.add_lt_add_left ih _
      _ = (b.toNat + 1) * 256 ^ bs.length := by ring
      _ ≤ 256 * 256 ^ bs.length := Nat.mul_le_mul_right _ hb
      _ = 256 ^ (b :: bs).length := by rw [List.length_cons, pow_succ']

/-- Bytes of one length that spell one number are the same bytes. -/
theorem ofBe_inj {xs ys : List Byte} (hl : xs.length = ys.length) (h : ofBe xs = ofBe ys) : xs = ys := by
  induction xs generalizing ys with
  | nil => exact (List.length_eq_zero_iff.1 hl.symm).symm
  | cons b xs ih =>
    cases ys with
    | nil => cases hl
    | cons c ys =>
      have hl' : xs.length = ys.length := Nat.succ.inj hl
      have hx := ofBe_lt xs
      have hy := ofBe_lt ys
      rw [ofBe_cons, ofBe_cons, hl'] at h
      rw [hl'] at hx
      have hpos : 0 < 256 ^ ys.length := by positivity
      have hhigh := congrArg (· / 256 ^ ys.length) h
      simp only [Nat.mul_comm _ (256 ^ ys.length), Nat.mul_add_div hpos, Nat.div_eq_of_lt hx, Nat.div_eq_of_lt hy, Nat.add_zero] at hhigh
      rw [hhigh] at h
      rw [BitVec.eq_of_toNat_eq hhigh, ih hl' (Nat.add_left_cancel h)]

/-- What `ofBe` reads, `be` writes. -/
theorem be_ofBe {n : Nat} {bs : List Byte} (h : bs.length = n) : be n (ofBe bs) = bs := by
  refine ofBe_inj (by rw [be_length, h]) ?_
  rw [ofBe_be_of_lt (h ▸ ofBe_lt bs)]

theorem be_one (n : Nat) : be 1 n = [BitVec.ofNat 8 n] := by simp [be]

theorem be_one_toNat (b : Byte) : be 1 b.toNat = [b] := by
  rw [be_one, BitVec.ofNat_toNat, BitVec.setWidth_eq]

theorem be_one_of_toNat {b : Byte} {n : Nat} (h : b.toNat = n) : be 1 n = [b] := h ▸ be_one_toNat b

theorem toNat_byte {n : Nat} (h : n < 256) : (BitVec.ofNat 8 n).toNat = n := by
  rw [BitVec.toNat_ofNat]
  omega

/-- The other way round of `asFin_of_val`. -/
theorem val_of_asFin {n v : Nat} {i : Fin n} (h : asFin n v = some i) : v = i.val := by
  unfold asFin at h
  split at h
  · exact congrArg Fin.val (Option.some.inj h)
  · cases h

/-- Three one-byte arguments are three bytes. -/
theorem fields_three {bs : List Byte} {x y z : Nat} (h : fields [1, 1, 1] bs = some [x, y, z]) :
    bs = be 1 x ++ be 1 y ++ be 1 z := by
  match bs, h with
  | [a, b, c], h =>
    have e : [a.toNat, b.toNat, c.toNat] = [x, y, z] := by simpa [fields, ofBe] using h
    obtain ⟨rfl, rfl, rfl⟩ : a.toNat = x ∧ b.toNat = y ∧ c.toNat = z := by simpa using e
    rw [be_one_toNat, be_one_toNat, be_one_toNat]
    rfl
  | [], h => simp [fields] at h
  | [_], h => simp [fields] at h
  | [_, _], h => simp [fields] at h
  | _ :: _ :: _ :: _ :: _, h => simp [fields] at h

theorem fields_three_be {x y z : Nat} (hx : x < 256) (hy : y < 256) (hz : z < 256) :
    fields [1, 1, 1] (be 1 x ++ be 1 y ++ be 1 z) = some [x, y, z] := by
  simp [be_one, fields, ofBe, Nat.mod_eq_of_lt hx, Nat.mod_eq_of_lt hy, Nat.mod_eq_of_lt hz]

/-! ## Enumerated values (R70, R174, R177) -/

/-- The bytes of a mask over a scope's members. -/
def Scope.width : Scope → Nat
  | .slot => 2
  | .channel => 1

theorem asScope_iff {n : Nat} {sc : Scope} {w : Nat} : asScope n = some (sc, w) ↔ n = sc.no ∧ w = sc.width := by
  refine ⟨fun h => ?_, fun ⟨hn, hw⟩ => ?_⟩
  · unfold asScope at h
    split at h
    · obtain ⟨rfl, rfl⟩ : Scope.slot = sc ∧ 2 = w := by simpa using h
      exact ⟨rfl, rfl⟩
    · obtain ⟨rfl, rfl⟩ : Scope.channel = sc ∧ 1 = w := by simpa using h
      exact ⟨rfl, rfl⟩
    · cases h
  · subst hn hw
    cases sc <;> rfl

theorem asCondition_iff {n : Nat} {k : Condition} : asCondition n = some k ↔ n = k.no := by
  refine ⟨fun h => ?_, fun h => by subst h; cases k <;> rfl⟩
  unfold asCondition at h
  split at h <;> cases h <;> rfl

theorem asReduce_iff {n : Nat} {r : Reduce} : asReduce n = some r ↔ n = if r = .any then 0 else 255 := by
  refine ⟨fun h => ?_, fun h => by subst h; cases r <;> rfl⟩
  unfold asReduce at h
  split at h <;> cases h <;> rfl

theorem asSource_iff {n : Nat} {v : ValueSource} : asSource n = some v ↔ n = if v = .live then 0 else 1 := by
  refine ⟨fun h => ?_, fun h => by subst h; cases v <;> rfl⟩
  unfold asSource at h
  split at h <;> cases h <;> rfl

theorem asFlag_iff {n : Nat} {b : Bool} : asFlag n = some b ↔ n = if b then 1 else 0 := by
  refine ⟨fun h => ?_, fun h => by subst h; cases b <;> rfl⟩
  unfold asFlag at h
  split at h <;> cases h <;> rfl

/-- R177: the number of a mode. -/
theorem asIndMode_iff {n : Nat} {m : IndMode} : asIndMode n = some m ↔ n = m.no := by
  refine ⟨fun h => ?_, fun h => by subst h; cases m <;> rfl⟩
  unfold asIndMode at h
  split at h <;> cases h <;> rfl

theorem asPolarity_iff {n : Nat} {p : Polarity} : asPolarity n = some p ↔ n = if p = .activeHigh then 0 else 1 := by
  refine ⟨fun h => ?_, fun h => by subst h; cases p <;> rfl⟩
  unfold asPolarity at h
  split at h <;> cases h <;> rfl

/-! ## Operands (R177, R182) -/

theorem Operand.bytes_eq (o : Operand) :
    o.bytes = be 1 o.scope.no ++ be 1 o.condition.no ++ be o.scope.width o.mask.toNat ++
      (be 1 (if o.reduce = .any then 0 else 255) ++ be 1 (if o.source = .live then 0 else 1) ++ be 1 (if o.invert then 1 else 0)) := by
  unfold Operand.bytes
  cases o.scope <;> simp [Scope.no, Scope.width]

/-- A stated operand's condition is of its scope, and its mask fits the bytes that the scope gives it. -/
theorem Operand.stated_iff (o : Operand) : o.Stated ↔ o.condition.scope = o.scope ∧ o.mask.toNat < 256 ^ o.scope.width := by
  have hmask := o.mask.isLt
  unfold Operand.Stated
  cases o.scope <;> cases o.condition <;> simp [Condition.scope, Scope.width] <;> omega

theorem scope_no_lt (sc : Scope) : sc.no < 256 := by cases sc <;> decide

theorem condition_no_lt (k : Condition) : k.no < 256 := by cases k <;> decide

/-- The reduce, source and invert bytes of an operand, which end it. -/
def Operand.flagBytes (o : Operand) : List Byte :=
  be 1 (if o.reduce = .any then 0 else 255) ++ be 1 (if o.source = .live then 0 else 1) ++ be 1 (if o.invert then 1 else 0)

theorem Operand.bytes_append (o : Operand) (rest : List Byte) :
    o.bytes ++ rest = BitVec.ofNat 8 o.scope.no :: BitVec.ofNat 8 o.condition.no ::
      (be o.scope.width o.mask.toNat ++ (o.flagBytes ++ rest)) := by
  rw [Operand.bytes_eq, be_one, be_one, Operand.flagBytes]
  simp only [List.append_assoc, List.cons_append, List.nil_append]

theorem Operand.fields_flagBytes (o : Operand) :
    fields [1, 1, 1] o.flagBytes =
      some [if o.reduce = .any then 0 else 255, if o.source = .live then 0 else 1, if o.invert then 1 else 0] :=
  fields_three_be (by split <;> decide) (by split <;> decide) (by split <;> decide)

/-- A stated operand is read back from its bytes. -/
theorem takeOperand_bytes {o : Operand} (h : o.Stated) (rest : List Byte) : takeOperand (o.bytes ++ rest) = some (o, rest) := by
  obtain ⟨hscope, hmask⟩ := o.stated_iff.1 h
  have hsc : asScope (BitVec.ofNat 8 o.scope.no).toNat = some (o.scope, o.scope.width) :=
    asScope_iff.2 ⟨toNat_byte (scope_no_lt _), rfl⟩
  have hk : asCondition (BitVec.ofNat 8 o.condition.no).toNat = some o.condition := asCondition_iff.2 (toNat_byte (condition_no_lt _))
  have hlen : o.flagBytes.length = 3 := by simp [Operand.flagBytes]
  have hend : (be o.scope.width o.mask.toNat ++ (o.flagBytes ++ rest)).drop (o.scope.width + 3) = rest := by
    rw [← List.append_assoc, List.drop_left' (by rw [List.length_append, be_length, hlen])]
  rw [Operand.bytes_append]
  unfold takeOperand
  dsimp only
  rw [hsc, hk]
  dsimp only
  rw [hend, List.drop_left' (be_length ..), List.take_left' hlen, List.take_left' (be_length ..), Operand.fields_flagBytes,
    decide_eq_true hscope]
  dsimp only
  rw [asReduce_iff.2 rfl, asSource_iff.2 rfl, asFlag_iff.2 rfl, ofBe_be_of_lt hmask, BitVec.ofNat_toNat, BitVec.setWidth_eq]

/-- Bytes from which an operand is read are its own, and it is a stated one. -/
theorem takeOperand_spells {bs rest : List Byte} {o : Operand} (h : takeOperand bs = some (o, rest)) :
    o.Stated ∧ bs = o.bytes ++ rest := by
  unfold takeOperand at h
  split at h
  case h_2 => cases h
  next sc k tail =>
  split at h
  case h_2 => cases h
  next scope w condition hsc hk =>
  split at h
  case h_2 => cases h
  next red src inv hfields hscope =>
  split at h
  case h_2 => cases h
  next reduce source invert hred hsrc hinv =>
  obtain ⟨rfl, rfl⟩ := Prod.mk.inj (Option.some.inj h)
  obtain ⟨hscno, rfl⟩ := asScope_iff.1 hsc
  have hthree := fields_three hfields
  have hlen : scope.width + 3 ≤ tail.length := by
    have := congrArg List.length hthree
    simp only [List.length_take, List.length_drop, List.length_append, be_length] at this
    omega
  have hmasklen : (tail.take scope.width).length = scope.width := by rw [List.length_take]; omega
  have hmask : ofBe (tail.take scope.width) < 256 ^ scope.width := by
    have := ofBe_lt (tail.take scope.width)
    rwa [hmasklen] at this
  have hmask16 : (BitVec.ofNat 16 (ofBe (tail.take scope.width))).toNat = ofBe (tail.take scope.width) := by
    rw [BitVec.toNat_ofNat]
    refine Nat.mod_eq_of_lt (Nat.lt_of_lt_of_le hmask ?_)
    cases scope <;> decide
  refine ⟨(Operand.stated_iff _).2 ⟨of_decide_eq_true hscope, by rw [hmask16]; exact hmask⟩, ?_⟩
  rw [Operand.bytes_append, Operand.flagBytes]
  dsimp only
  rw [hmask16, be_ofBe hmasklen, ← asReduce_iff.1 hred, ← asSource_iff.1 hsrc, ← asFlag_iff.1 hinv, ← hthree, ← hscno,
    ← asCondition_iff.1 hk]
  have htail : tail.take scope.width ++ ((tail.drop scope.width).take 3 ++ tail.drop (scope.width + 3)) = tail := by
    rw [← List.drop_drop, List.take_append_drop, List.take_append_drop]
  rw [htail]
  simp

/-! ## The other fields (R177, R182) -/

/-- Combine, the presence of operand 2, and operand 2. -/
def secondBytes : Option (CombineOp × Operand) → List Byte
  | none => be 1 0 ++ be 1 0
  | some (op, o) => be 1 op.no ++ (be 1 1 ++ o.bytes)

def driveBytes : Drive → List Byte
  | .solid => be 1 0
  | .blink p => be 1 1 ++ be 1 p.val

theorem IndFields.bytes_eq (f : IndFields) :
    f.bytes = be 1 (if f.enabled then 1 else 0) ++ (f.operand1.bytes ++ (secondBytes f.second ++ (be 1 f.mode.no ++
      (driveBytes f.drive ++ (be 1 f.delay ++ be 1 (if f.polarity = .activeHigh then 0 else 1)))))) := by
  have hsecond : (match f.second with
      | none => be 1 0 ++ be 1 0
      | some (.or, o) => be 1 1 ++ (be 1 1 ++ o.bytes)
      | some (.and, o) => be 1 2 ++ (be 1 1 ++ o.bytes)
      | some (.xor, o) => be 1 3 ++ (be 1 1 ++ o.bytes)) = secondBytes f.second := by
    rcases f.second with _ | ⟨_ | _ | _, o⟩ <;> rfl
  have hmode : (match f.mode with
      | .steady => 0
      | .pulse => 1
      | .extend => 2
      | .toggle => 3) = f.mode.no := by
    cases f.mode <;> rfl
  have hdrive : (match f.drive with
      | .solid => be 1 0
      | .blink p => be 1 1 ++ be 1 p.val) = driveBytes f.drive := by
    cases f.drive <;> rfl
  simp only [← List.append_assoc, ← hsecond, ← hmode, ← hdrive]
  rfl

theorem takeSecond_bytes {x : Option (CombineOp × Operand)} (h : ∀ op o, x = some (op, o) → o.Stated) (rest : List Byte) :
    takeSecond (secondBytes x ++ rest) = some (x, rest) := by
  rcases x with _ | ⟨op, o⟩
  · rfl
  · have ho := takeOperand_bytes (h op o rfl) rest
    rw [secondBytes, be_one, be_one]
    cases op <;> exact congrArg (Option.map _) ho

theorem takeSecond_spells {bs rest : List Byte} {x : Option (CombineOp × Operand)} (h : takeSecond bs = some (x, rest)) :
    (∀ op o, x = some (op, o) → o.Stated) ∧ bs = secondBytes x ++ rest := by
  unfold takeSecond at h
  split at h
  case h_2 => cases h
  next c has tail =>
  have spelled (op : CombineOp) (hc : c.toNat = op.no) (hhas : has.toNat = 1)
      (h : (takeOperand tail).map (fun p => (some (op, p.1), p.2)) = some (x, rest)) :
      (∀ op o, x = some (op, o) → o.Stated) ∧ c :: has :: tail = secondBytes x ++ rest := by
    obtain ⟨⟨o, rest'⟩, ho, hx⟩ := Option.map_eq_some_iff.1 h
    obtain ⟨rfl, rfl⟩ := Prod.mk.inj hx
    obtain ⟨hstated, rfl⟩ := takeOperand_spells ho
    refine ⟨fun op' o' e => ?_, ?_⟩
    · obtain ⟨-, rfl⟩ := Prod.mk.inj (Option.some.inj e)
      exact hstated
    · rw [secondBytes, be_one_of_toNat hc, be_one_of_toNat hhas]
      rfl
  split at h
  · next hc hhas =>
    obtain ⟨rfl, rfl⟩ := Prod.mk.inj (Option.some.inj h)
    refine ⟨fun _ _ e => absurd e (by simp), ?_⟩
    obtain rfl : c = has := BitVec.eq_of_toNat_eq (hc.trans hhas.symm)
    rw [secondBytes, be_one_of_toNat hc]
    rfl
  · next hc hhas => exact spelled .or hc hhas h
  · next hc hhas => exact spelled .and hc hhas h
  · next hc hhas => exact spelled .xor hc hhas h
  · cases h

theorem takeDrive_bytes (d : Drive) (rest : List Byte) : takeDrive (driveBytes d ++ rest) = some (d, rest) := by
  cases d with
  | solid => rfl
  | blink p =>
    have hp : asFin 8 (BitVec.ofNat 8 p.val).toNat = some p := asFin_of_val (toNat_byte (by omega))
    rw [driveBytes, be_one, be_one]
    exact congrArg (Option.map _) hp

theorem takeDrive_spells {bs rest : List Byte} {d : Drive} (h : takeDrive bs = some (d, rest)) : bs = driveBytes d ++ rest := by
  unfold takeDrive at h
  split at h
  case h_2 => cases h
  next c tail =>
  split at h
  · next hc =>
    obtain ⟨rfl, rfl⟩ := Prod.mk.inj (Option.some.inj h)
    rw [driveBytes, be_one_of_toNat hc]
    rfl
  · next p rest2 hc =>
    obtain ⟨n, hn, hd⟩ := Option.map_eq_some_iff.1 h
    obtain ⟨rfl, rfl⟩ := Prod.mk.inj hd
    rw [driveBytes, be_one_of_toNat hc, be_one_of_toNat (val_of_asFin hn)]
    rfl
  · cases h

/-- The mode, drive, delay and polarity bytes of the fields. -/
def IndFields.tailBytes (f : IndFields) : List Byte :=
  be 1 f.mode.no ++ (driveBytes f.drive ++ (be 1 f.delay ++ be 1 (if f.polarity = .activeHigh then 0 else 1)))

theorem takeTail_bytes {f : IndFields} (h : f.delay ≤ 255) : takeTail f.enabled f.operand1 f.second f.tailBytes = some f := by
  have hmode : asIndMode (BitVec.ofNat 8 f.mode.no).toNat = some f.mode :=
    asIndMode_iff.2 (toNat_byte (by cases f.mode <;> decide))
  have hpol : asPolarity (BitVec.ofNat 8 (if f.polarity = .activeHigh then 0 else 1)).toNat = some f.polarity :=
    asPolarity_iff.2 (toNat_byte (by split <;> decide))
  have hdrive := takeDrive_bytes f.drive [BitVec.ofNat 8 f.delay, BitVec.ofNat 8 (if f.polarity = .activeHigh then 0 else 1)]
  rw [IndFields.tailBytes, be_one, be_one, be_one]
  simp only [List.cons_append, List.nil_append, takeTail, hmode, hdrive, hpol, toNat_byte (Nat.lt_succ_of_le h), Option.map_some]

theorem takeTail_spells {en : Bool} {o : Operand} {x : Option (CombineOp × Operand)} {bs : List Byte} {f : IndFields}
    (h : takeTail en o x bs = some f) :
    f.enabled = en ∧ f.operand1 = o ∧ f.second = x ∧ f.delay ≤ 255 ∧ bs = f.tailBytes := by
  unfold takeTail at h
  split at h
  case h_2 => cases h
  next m tail =>
  split at h
  case h_2 => cases h
  next mode drive delay pol hmode hdrive =>
  obtain ⟨polarity, hpol, rfl⟩ := Option.map_eq_some_iff.1 h
  have hd := delay.isLt
  refine ⟨rfl, rfl, rfl, by dsimp only; omega, ?_⟩
  rw [takeDrive_spells hdrive, IndFields.tailBytes]
  dsimp only
  rw [← asIndMode_iff.1 hmode, ← asPolarity_iff.1 hpol, be_one_toNat, be_one_toNat, be_one_toNat]
  rfl

/-! ## The arguments of INDICATOR WRITE -/

theorem IndFields.bytes_tail (f : IndFields) :
    f.bytes = be 1 (if f.enabled then 1 else 0) ++ (f.operand1.bytes ++ (secondBytes f.second ++ f.tailBytes)) := f.bytes_eq

/-- Stated fields are read back from their bytes. -/
theorem indicatorArgs_bytes (n : IndNo) {f : IndFields} (h : f.Stated) : indicatorArgs (be 1 n.val ++ f.bytes) = some (n, f) := by
  obtain ⟨hfirst, hsecond, hdelay⟩ := h
  have hn : asFin 8 (BitVec.ofNat 8 n.val).toNat = some n := asFin_of_val (toNat_byte (by omega))
  have hen : asFlag (BitVec.ofNat 8 (if f.enabled then 1 else 0)).toNat = some f.enabled :=
    asFlag_iff.2 (toNat_byte (by split <;> decide))
  rw [IndFields.bytes_tail, be_one, be_one]
  simp only [List.cons_append, List.nil_append, indicatorArgs, hn, hen, takeOperand_bytes hfirst, takeSecond_bytes hsecond,
    takeTail_bytes hdelay, Option.map_some]

/-- Arguments that are read are the bytes of an indicator number and of stated fields. -/
theorem indicatorArgs_spells {bs : List Byte} {n : IndNo} {f : IndFields} (h : indicatorArgs bs = some (n, f)) :
    f.Stated ∧ bs = be 1 n.val ++ f.bytes := by
  unfold indicatorArgs at h
  split at h
  case h_2 => cases h
  next b e tail =>
  split at h
  case h_2 => cases h
  next i en o rest hi hen ho =>
  split at h
  case h_2 => cases h
  next second rest2 hsecond =>
  obtain ⟨g, hg, hif⟩ := Option.map_eq_some_iff.1 h
  obtain ⟨rfl, rfl⟩ := Prod.mk.inj hif
  obtain ⟨rfl, rfl, rfl, hdelay, rfl⟩ := takeTail_spells hg
  obtain ⟨hstated, rfl⟩ := takeOperand_spells ho
  obtain ⟨hstated2, rfl⟩ := takeSecond_spells hsecond
  refine ⟨⟨hstated, hstated2, hdelay⟩, ?_⟩
  rw [IndFields.bytes_tail, ← asFlag_iff.1 hen, be_one_toNat, ← val_of_asFin hi, be_one_toNat]
  rfl

end Sys2Proof.Machine
end

section
/-!
INDICATOR WRITE and INDICATOR RELEASE (R177-R183).
-/

namespace Sys2Proof.Machine

/-! ## INDICATOR WRITE (R182) -/

theorem indicatorWrite_done {args : List Byte} {n : IndNo} {f : IndFields} (h : indicatorArgs args = some (n, f)) (tag : Byte)
    (k : BitVec 16) (s : State) :
    indicatorWrite { tag, kind := k, args } s =
      ({ tag, kind := k, args } : Request).reply .done (encFlag (restarted s.events f).result ++ encOutput (restarted s.events f))
        (s.setIndicator n (restarted s.events f)) := by
  rw [indicatorWrite, h]

theorem indicatorWrite_bad {args : List Byte} (h : indicatorArgs args = none) (tag : Byte) (k : BitVec 16) (s : State) :
    indicatorWrite { tag, kind := k, args } s = ({ tag, kind := k, args } : Request).reply .badArgument [] s := by
  rw [indicatorWrite, h]

/-- Fields that ask for nothing leave the restarted running state as it is. -/
theorem restarted_rests {f : IndFields} {u : EventUnit} (h : ¬(f.enabled = true ∧ f.holds u)) : restarted u f = { fields := f } :=
  have e := Indicator.evaluate_evaluated u { fields := f }
  e.2.1 (fun hr => h ⟨hr.1, hr.2.2⟩) fun hf => absurd hf.2.1 (by simp)

/-- A true result is a rise from an INACTIVE output, taken by the mode. -/
theorem restarted_rises {f : IndFields} {u : EventUnit} (h : f.enabled = true ∧ f.holds u) :
    restarted u f = ({ fields := f, result := true } : Indicator).rise := by
  have hr : f.eval u = true := (f.eval_iff u).2 h.2
  unfold restarted Indicator.evaluate
  dsimp only
  rw [if_pos h.1, hr, if_neg (by simp), if_pos rfl]

theorem restarted_fields (u : EventUnit) (f : IndFields) : (restarted u f).fields = f :=
  (Indicator.evaluate_evaluated u { fields := f }).1

theorem restarted_result (u : EventUnit) (f : IndFields) : (restarted u f).result = true ↔ f.enabled = true ∧ f.holds u := by
  by_cases h : f.enabled = true ∧ f.holds u
  · have hrise := (Indicator.evaluate_evaluated u { fields := f }).2.2.1 ⟨h.1, rfl, h.2⟩
    exact ⟨fun _ => h, fun _ => hrise.1⟩
  · rw [restarted_rests h]
    simp [h]

/-- In every mode but PULSE the output follows the result, and nothing runs. -/
theorem restarted_plain {f : IndFields} (hm : f.mode ≠ .pulse) (u : EventUnit) :
    (restarted u f).active = (restarted u f).result ∧ (restarted u f).timer = none ∧ (restarted u f).hold = false := by
  by_cases h : f.enabled = true ∧ f.holds u
  · rw [restarted_rises h]
    unfold Indicator.rise
    cases hmode : f.mode with
    | pulse => exact absurd hmode hm
    | _ => exact ⟨rfl, rfl, rfl⟩
  · rw [restarted_rests h]
    exact ⟨rfl, rfl, rfl⟩

/-- R180: a pulse with no delay, or with no rise, leaves the output INACTIVE. -/
theorem restarted_pulse_none {f : IndFields} {u : EventUnit} (hm : f.mode = .pulse) (h : f.delay = 0 ∨ (restarted u f).result = false) :
    (restarted u f).active = false ∧ (restarted u f).timer = none ∧ (restarted u f).hold = false := by
  by_cases hr : f.enabled = true ∧ f.holds u
  · have hd : f.delay = 0 := h.resolve_right (by rw [(restarted_result u f).2 hr]; simp)
    rw [restarted_rises hr]
    simp [Indicator.rise, hm, hd]
  · rw [restarted_rests hr]
    exact ⟨rfl, rfl, rfl⟩

/-- R180: a pulse with delay 255 holds. -/
theorem restarted_pulse_hold {f : IndFields} {u : EventUnit} (hm : f.mode = .pulse) (hd : f.delay = 255) :
    (restarted u f).active = (restarted u f).result ∧ (restarted u f).timer = none ∧
      (restarted u f).hold = (restarted u f).result := by
  by_cases hr : f.enabled = true ∧ f.holds u
  · rw [restarted_rises hr]
    simp [Indicator.rise, Indicator.activate, hm, hd]
  · rw [restarted_rests hr]
    exact ⟨rfl, rfl, rfl⟩

/-- R180: a pulse with another delay runs its timer. -/
theorem restarted_pulse_timed {f : IndFields} {u : EventUnit} (hm : f.mode = .pulse) (h0 : f.delay ≠ 0) (h255 : f.delay ≠ 255)
    (hr : (restarted u f).result = true) :
    (restarted u f).active = true ∧ (restarted u f).timer = some (f.delay * 50) ∧ (restarted u f).hold = false := by
  rw [restarted_rises ((restarted_result u f).1 hr)]
  simp [Indicator.rise, Indicator.activate, hm, h0, h255]

theorem encOutput_eq (d : Indicator) : encOutput d = be 1 (if d.active then 0 else 1) := by
  unfold encOutput
  cases d.active <;> rfl

/-! ## INDICATOR RELEASE (R183) -/

/-- What a release that names the entry makes of it. -/
def Indicator.released (d : Indicator) : Indicator := if d.fields.enabled then d.release else d

/-- The entry with its output, timer and hold ended. -/
def Indicator.ended (d : Indicator) : Indicator := { d.deactivate with timer := none, hold := false }

section
variable {d : Indicator}

theorem Indicator.release_steady (h : d.fields.mode = .steady) : d.release = d := by
  rw [Indicator.release, h]

theorem Indicator.release_toggle (h : d.fields.mode = .toggle) : d.release = d.deactivate := by
  rw [Indicator.release, h]

theorem Indicator.release_pulse (h : d.fields.mode = .pulse) : d.release = d.ended := by
  rw [Indicator.release, h]
  rfl

theorem Indicator.release_extend_true (h : d.fields.mode = .extend) (hr : d.result = true) : d.release = d := by
  rw [Indicator.release, h, hr]
  rfl

theorem Indicator.release_extend_false (h : d.fields.mode = .extend) (hr : d.result = false) : d.release = d.ended := by
  rw [Indicator.release, h, hr]
  rfl

/-- A second release finds nothing to end. -/
theorem Indicator.release_release (d : Indicator) : d.release.release = d.release := by
  cases hm : d.fields.mode with
  | steady => rw [release_steady hm, release_steady hm]
  | toggle => rw [release_toggle hm, release_toggle (d := d.deactivate) hm]; rfl
  | pulse => rw [release_pulse hm, release_pulse (d := d.ended) hm]; rfl
  | extend =>
    cases hr : d.result with
    | true => rw [release_extend_true hm hr, release_extend_true hm hr]
    | false => rw [release_extend_false hm hr, release_extend_false (d := d.ended) hm hr]; rfl

theorem Indicator.release_fields (d : Indicator) : d.release.fields = d.fields := by
  unfold Indicator.release
  cases d.fields.mode with
  | extend => cases d.result <;> rfl
  | _ => rfl

end

theorem Indicator.released_released (d : Indicator) : d.released.released = d.released := by
  unfold Indicator.released
  by_cases he : d.fields.enabled = true
  · rw [if_pos he, if_pos (by rw [d.release_fields, he]), d.release_release]
  · rw [if_neg he, if_neg he]

theorem nth_releaseOne (s : State) (i j : IndNo) :
    nth (releaseOne s i).indicators j = if i = j then (nth s.indicators i).released else nth s.indicators j := by
  unfold releaseOne Indicator.released
  by_cases he : (nth s.indicators i).fields.enabled = true
  · rw [if_pos he, if_pos he, setIndicator_indicators, nth_upd]
  · rw [if_neg he, if_neg he]
    split
    · next e => rw [e]
    · rfl

theorem nth_releaseOne_foldl (is : List IndNo) (s : State) (j : IndNo) :
    nth (is.foldl releaseOne s).indicators j = if j ∈ is then (nth s.indicators j).released else nth s.indicators j := by
  induction is generalizing s with
  | nil => rfl
  | cons i is ih =>
    rw [List.foldl_cons, ih, nth_releaseOne]
    by_cases hij : i = j
    · subst hij
      rw [if_pos rfl, Indicator.released_released, ite_self, if_pos (List.mem_cons_self ..)]
    · rw [if_neg hij]
      simp [Ne.symm hij]

theorem indicatorRelease_done {v : Nat} {is : List IndNo} {s : State} (h : asMembers 8 v = some is)
    (hen : v = 255 ∨ ∀ i ∈ is, (nth s.indicators i).fields.enabled = true) (r : Request) :
    indicatorRelease [v] r s = r.reply .done (is.flatMap (fun i => encOutput (nth (is.foldl releaseOne s).indicators i)))
      (is.foldl releaseOne s) := by
  rw [indicatorRelease, h]
  dsimp only
  refine if_neg fun hbad => ?_
  obtain ⟨i, hi, hdis⟩ := List.any_eq_true.1 hbad.2
  rw [hen.resolve_left hbad.1 i hi] at hdis
  cases hdis

theorem asMembers_single {n v : Nat} {i : Fin n} (hv : v = i.val) (hall : v ≠ 255) : asMembers n v = some [i] := by
  rw [asMembers, if_neg hall, asFin_of_val hv, Option.map_some]

theorem indicatorRelease_disabled {v : Nat} {n : IndNo} {s : State} (hv : v = n.val) (h : (nth s.indicators n).fields.enabled = false)
    (r : Request) : indicatorRelease [v] r s = r.reply .badState [] s := by
  have hall : v ≠ 255 := by omega
  rw [indicatorRelease, asMembers_single hv hall]
  exact if_pos ⟨hall, by simp [h]⟩

theorem indicatorRelease_bad {v : Nat} (h : 8 ≤ v) (hall : v ≠ 255) (r : Request) (s : State) :
    indicatorRelease [v] r s = r.reply .badArgument [] s := by
  rw [indicatorRelease, asMembers, if_neg hall, asFin_eq_none h, Option.map_none]

/-- R183: what a release makes of an enabled entry, by its mode. -/
theorem Indicator.release_by_mode (d : Indicator) :
    (d.fields.mode = .steady → d.release = d) ∧
    (d.fields.mode = .toggle → d.release.active = false ∧ d.release.result = d.result ∧ d.release.fields = d.fields) ∧
    (d.fields.mode = .pulse ∨ (d.fields.mode = .extend ∧ d.result = false) →
      d.release.active = false ∧ d.release.timer = none ∧ d.release.hold = false ∧ d.release.result = d.result ∧
        d.release.fields = d.fields) ∧
    (d.fields.mode = .extend → d.result = true → d.release = d) := by
  refine ⟨Indicator.release_steady, fun hm => ?_, fun h => ?_, Indicator.release_extend_true⟩
  · rw [Indicator.release_toggle hm]
    exact ⟨rfl, rfl, rfl⟩
  · have hended : d.release = d.ended := h.elim Indicator.release_pulse fun h => Indicator.release_extend_false h.1 h.2
    rw [hended]
    exact ⟨rfl, rfl, rfl, rfl, rfl⟩

/-! ## The requests -/

theorem indicatorWrite_request {s : State} {tag : Byte} {rest : List Request} {n : IndNo} {f : IndFields}
    (hs : Serves s { tag, kind := 38#16, args := be 1 n.val ++ f.bytes } rest) (hf : f.Stated) :
    exec .indicatorWrite s = .next (kickLane (({ tag, kind := 38#16, args := be 1 n.val ++ f.bytes } : Request).reply .done
      (encFlag (restarted s.events f).result ++ encOutput (restarted s.events f))
      ((takeRequest rest s).setIndicator n (restarted s.events f)))) := by
  have hx := quiet_served indicatorWrite hs rfl
  rw [indicatorWrite_done (indicatorArgs_bytes n hf)] at hx
  exact hx

theorem indicatorRelease_request {s : State} {tag b : Byte} {rest : List Request} {is : List IndNo}
    (hs : Serves s { tag, kind := 39#16, args := [b] } rest) (h : asMembers 8 b.toNat = some is)
    (hen : b.toNat = 255 ∨ ∀ i ∈ is, (nth s.indicators i).fields.enabled = true) :
    let u := is.foldl releaseOne (takeRequest rest s)
    exec .indicatorRelease s = .next (kickLane (({ tag, kind := 39#16, args := [b] } : Request).reply .done
      (is.flatMap (fun i => encOutput (nth u.indicators i))) u)) := by
  have hx := quiet_served (withArgs [1] indicatorRelease) hs rfl
  rw [withArgs_fit _ _ (fields_byte b), indicatorRelease_done (s := takeRequest rest s) h hen] at hx
  exact hx

/-- Settles O20: the arguments are read as they are spelled, a write restarts and evaluates the entry, and a release ends what the named
entries hold. -/
theorem indicatorWriteAndRelease : Obligations.IndicatorWriteAndRelease := by
  unfold Obligations.IndicatorWriteAndRelease
  refine ⟨?_, ?_, ?_, ?_, ?_⟩
  · intro s args h
    refine carries_of_quiet (carry := indicatorWrite) rfl rfl rfl fun tag rest => indicatorWrite_bad ?_ _ _ _
    cases hargs : indicatorArgs args with
    | none => rfl
    | some nf =>
      obtain ⟨hstated, hbytes⟩ := indicatorArgs_spells (n := nf.1) (f := nf.2) hargs
      exact absurd hbytes (h nf.1 nf.2 hstated)
  · intro s tag rest n f hs hf
    have hx := indicatorWrite_request hs hf
    refine ⟨_, hx, ?_⟩
    set t := kickLane _ with ht
    have hn : nth t.indicators n = restarted s.events f := nth_upd_same _ _ _
    rw [hn]
    refine ⟨restarted_fields _ _, restarted_result _ _, Indicator.evaluate_evaluated s.events { fields := f },
      fun hm => restarted_plain hm _, restarted_pulse_none, restarted_pulse_hold, restarted_pulse_timed, fun j hj => ?_, ?_,
      exec_keeps _ s t rfl hx⟩
    · exact nth_upd_ne _ _ hj.symm
    · rw [← encOutput_eq]
      exact lastAnswer_kickLane.2 (lastAnswer_reply _ _ _ _ _ _)
  · intro s n hdis
    refine carries_of_quiet (carry := withArgs [1] indicatorRelease) rfl rfl rfl fun tag rest => ?_
    rw [withArgs_fit _ _ (fields_byte _), indicatorRelease_disabled (s := takeRequest rest s) (toNat_byte (by omega)) hdis]
  · intro s b h8 hall
    refine carries_of_quiet (carry := withArgs [1] indicatorRelease) rfl rfl rfl fun tag rest => ?_
    rw [withArgs_fit _ _ (fields_byte b), indicatorRelease_bad h8 (byte_ne_all hall)]
  · intro s tag b rest hs hb
    have hall : b = 0xFF#8 ↔ b.toNat = 255 := ⟨fun e => e ▸ rfl, fun e => BitVec.eq_of_toNat_eq e⟩
    obtain ⟨is, his, hmem⟩ := asMembers_mem (n := 8) (v := b.toNat) (by
      rcases hb with h | ⟨n, hn, -⟩
      · exact .inr (hall.1 h)
      · exact .inl (by omega))
    have hen : b.toNat = 255 ∨ ∀ i ∈ is, (nth s.indicators i).fields.enabled = true := by
      rcases hb with h | ⟨n, hn, hen⟩
      · exact .inl (hall.1 h)
      · refine .inr fun i hi => ?_
        obtain h | h := (hmem i).1 hi
        · omega
        · rwa [Fin.ext (h.symm.trans hn)]
    have hx := indicatorRelease_request hs his hen
    refine ⟨_, hx, ?_⟩
    set t := kickLane _ with ht
    have hnth (i : IndNo) : nth t.indicators i = if i ∈ is then (nth s.indicators i).released else nth s.indicators i :=
      nth_releaseOne_foldl is (takeRequest rest s) i
    refine ⟨fun i hi => ?_, fun i hi => ?_, fun n hn => ?_, exec_keeps _ s t rfl hx⟩
    · have hi' : nth t.indicators i = (nth s.indicators i).release := by
        rw [hnth, if_pos ((hmem i).2 (hi.1.imp_left hall.1)), Indicator.released, if_pos hi.2]
      rw [hi']
      exact Indicator.release_by_mode _
    · rw [hnth]
      split
      · next h =>
        rw [Indicator.released, if_neg fun he => hi ⟨((hmem i).1 h).imp_left hall.2, he⟩]
      · rfl
    · obtain rfl : is = [n] := Option.some.inj (his.symm.trans (asMembers_single hn (by omega)))
      have hans : lastAnswer t tag 39#16 .done _ := lastAnswer_kickLane.2 (lastAnswer_reply _ _ _ _ _ _)
      rw [List.flatMap_cons, List.flatMap_nil, List.append_nil, encOutput_eq] at hans
      exact hans

end Sys2Proof.Machine
end

section
/-!
SUPPORT. What the operations on slots take away from no one: the return lane, the responses that wait for it, the counters of the
lines, and a line with nothing in flight (R65, R66, R91).
-/

namespace Sys2Proof.Machine

/-! ## The relation and its composition -/

/-- From `s` to `t` the lane is the same and no waiting response is lost; no line counts, and a line with nothing in flight stays so. -/
structure Spares (s t : State) : Prop where
  lane : t.link.lane = s.link.lane
  responses : ∀ r, OutFrame.response r ∈ s.link.outgoing → OutFrame.response r ∈ t.link.outgoing
  counters : ∀ l, (t.line l).counters = (s.line l).counters
  idle : ∀ l, (s.line l).flight = none → (t.line l).flight = none

namespace Spares
variable {s t u : State}

theorem refl (s : State) : Spares s s := ⟨rfl, fun _ h => h, fun _ => rfl, fun _ h => h⟩

theorem trans (h1 : Spares s t) (h2 : Spares t u) : Spares s u where
  lane := h2.lane.trans h1.lane
  responses r hr := h2.responses r (h1.responses r hr)
  counters l := (h2.counters l).trans (h1.counters l)
  idle l hl := h2.idle l (h1.idle l hl)

theorem ite {c : Prop} [Decidable c] (h1 : c → Spares s t) (h2 : ¬c → Spares s u) : Spares s (if c then t else u) := by
  split
  · exact h1 ‹_›
  · exact h2 ‹_›

theorem foldl {α : Type} (f : State → α → State) (xs : List α) (h : ∀ s x, Spares s (f s x)) (s : State) : Spares s (xs.foldl f s) :=
  List.foldlRecOn xs f (refl s) fun t ht x _ => ht.trans (h t x)

theorem of_keeps {fs : List Part} (h : Keeps fs s t) (hf : ∀ p ∈ [Part.outgoing, .lane, .lines], p ∉ fs := by decide +kernel) :
    Spares s t := by
  have houtgoing : t.link.outgoing = s.link.outgoing := h _ (hf .outgoing (by decide))
  have hlane : t.link.lane = s.link.lane := (h _ (hf .lane (by decide))).1
  have hlines : t.lines = s.lines := h _ (hf .lines (by decide))
  have hline (l : LineNo) : t.line l = s.line l := congrArg (nth · l) hlines
  exact ⟨hlane, fun _ hr => houtgoing ▸ hr, fun l => congrArg _ (hline l), fun l hl => (congrArg _ (hline l)).trans hl⟩

/-- A line record replaced by one with the same counters, and nothing in flight if nothing was. -/
theorem setLine {l : LineNo} {x : Line} (hc : x.counters = (s.line l).counters) (hf : (s.line l).flight = none → x.flight = none) :
    Spares s (s.setLine l x) where
  lane := rfl
  responses _ h := h
  counters m := by
    rw [line_setLine]
    split
    · next e => rw [hc, e]
    · rfl
  idle m hm := by
    rw [line_setLine]
    split
    · next e => exact hf (e ▸ hm)
    · exact hm

/-- R66: a notice takes the place of a notice, never of a response. -/
theorem mem_placeNotice {r : Response} {os : List OutFrame} (h : OutFrame.response r ∈ os) (n : Notice) :
    OutFrame.response r ∈ placeNotice n os := by
  induction os with
  | nil => cases h
  | cons o os ih =>
    cases o with
    | notice m => simpa [placeNotice] using h
    | response q =>
      rw [placeNotice]
      rcases List.mem_cons.1 h with e | hm
      · exact e ▸ List.mem_cons_self ..
      · exact List.mem_cons_of_mem _ (ih hm)

theorem raise (k : EventKind) (a : Subject) (d : Nat) (s : State) : Spares s (raise k a d s) := by
  have hline (l : LineNo) : (Machine.raise k a d s).line l = s.line l := congrArg (nth · l) ((raise_keeps k a d s).get .lines)
  refine ⟨((raise_keeps k a d s).get .lane).1, fun r hr => ?_, fun l => congrArg _ (hline l), fun l hl => (congrArg _ (hline l)).trans hl⟩
  by_cases hask : AsksNotice k s
  · rw [raise_link_asking hask]
    exact mem_placeNotice hr _
  · rwa [raise_link_silent hask]

/-- A response that is being sent or waits is still so. -/
theorem mem_ownFrames (h : Spares s t) {r : Response} (hr : OutFrame.response r ∈ ownFrames s) : OutFrame.response r ∈ ownFrames t := by
  have hsending : sending t = sending s := by
    unfold sending
    rw [h.lane]
  rw [ownFrames_eq, List.mem_append] at hr ⊢
  rw [hsending]
  exact hr.imp_right (h.responses r)

end Spares

/-! ## The operations on slots -/

theorem setSlot_spares (i : SlotNo) (x : Slot) (s : State) : Spares s (s.setSlot i x) := .of_keeps (setSlot_keeps s i x)

theorem request_spares (i : SlotNo) (k : TxKind) (s : State) : Spares s (request i k s) := by
  obtain ⟨_, hflight, hcounters⟩ := Line.place_rest (s.line (lineOf i))
    { slot := i, kind := k, requester := k.requester, origin := .other, record := none }
  exact .setLine hcounters hflight.trans

theorem serveOwedCommit_spares (i : SlotNo) (s : State) : Spares s (serveOwedCommit i s) := by
  have cleared : Spares s (setOwedCommit i false s) := setSlot_spares i _ s
  unfold serveOwedCommit
  exact .ite (fun _ => .refl s) fun _ => .ite (fun _ => .refl s) fun _ => .ite (fun _ => .refl s) fun _ => .ite (fun _ => cleared)
    fun _ => .ite (fun _ => cleared.trans (request_spares i _ _)) fun _ => cleared

/-- R87: a withdrawal counts nothing and starts nothing. -/
theorem withdrawLine_spares (l : LineNo) (hits : TxEntry → Bool) (owed : Tbl 4 Owed) (s : State) :
    Spares s (s.setLine l (({ (s.line l).withdraw hits with owed := owed } : Line).serveMarks l)) := by
  obtain ⟨_, hflight, hcounters⟩ := Line.serveMarks_rest l { (s.line l).withdraw hits with owed := owed }
  refine .setLine hcounters fun hidle => hflight.trans ?_
  simp only [Line.withdraw, hidle]

theorem withdrawSlot_spares (i : SlotNo) (s : State) : Spares s (withdrawSlot i s) := by
  have gone := withdrawLine_spares (lineOf i) (fun e => e.slot == i)
  unfold withdrawSlot
  exact .ite (fun _ => (gone _ s).trans (serveOwedCommit_spares i _)) fun _ => gone _ s

theorem withdrawRead_spares (i : SlotNo) (s : State) : Spares s (withdrawRead i s) :=
  withdrawLine_spares (lineOf i) (fun e => e.slot == i && e.kind == .recordRead) _ s

theorem auditEnd_spares (r : Option AbortReason) (s : State) : Spares s (auditEnd r s) := by
  unfold auditEnd
  split
  · exact .refl s
  · exact (((Spares.of_keeps (setAudit_keeps s _)).trans (withdrawRead_spares _ _)).trans (serveOwedCommit_spares _ _)).trans
      (.raise _ _ _ _)

theorem reportSlot_spares (s : State) (i : SlotNo) : Spares s (reportSlot s i) := .of_keeps (reportSlot_keeps s i)

theorem retireCheck_spares (i : SlotNo) (s : State) : Spares s (retireCheck i s) := .of_keeps (retireCheck_keeps i s)

theorem setChan_spares {c : ChannelNo} (x : Channel) (s : State) : Spares s (s.setChan c x) :=
  .of_keeps (fs := [.channelSetup, .channelLimits, .supply, .selectionHeld, .switched])
    (setChan_keeps_of _ s c x (fun h => absurd (by decide) h) (fun h => absurd (by decide) h) (fun h => absurd (by decide) h)
      (fun h => absurd (by decide) h) fun h => absurd (by decide) h)

theorem runEvent_spares (c : ChannelNo) (was : Channel) (next : Option SlotNo) (s : State) : Spares s (runEvent c was next s) := by
  unfold runEvent
  split
  · exact .ite (fun _ => .refl s) fun _ => .raise _ _ _ s
  · exact .raise _ _ _ s
  · exact .raise _ _ _ s
  · exact .ite (fun _ => .raise _ _ _ s) fun _ => .refl s

theorem applyRun_spares (c : ChannelNo) (s : State) : Spares s (applyRun c s) := by
  have written (x : Channel) : Spares s (reportSupply (s.setChan c x) c) :=
    (setChan_spares x s).trans (.of_keeps (reportSupply_keeps _ c))
  have decided (x : Channel) (next : Option SlotNo) : Spares s (runEvent c (s.chan c) next (reportSupply (s.setChan c x) c)) :=
    (written x).trans (runEvent_spares c _ _ _)
  unfold applyRun
  refine .ite (fun _ => written _) fun _ => ?_
  dsimp only
  split
  · exact .ite (fun _ => decided _ _) fun _ => (decided _ _).trans (retireCheck_spares _ _)
  · exact decided _ _

theorem runFor_spares (i : SlotNo) (s : State) : Spares s (runFor i s) := by
  unfold runFor
  split
  · exact .ite (fun _ => setChan_spares _ s) fun _ => applyRun_spares _ s
  · exact .refl s

theorem auditCheck_spares (i : SlotNo) (s : State) : Spares s (auditCheck i s) :=
  .ite (fun _ => .ite (fun _ => .refl s) fun _ => .ite (fun _ => auditEnd_spares _ s) fun _ => auditEnd_spares _ s) fun _ => .refl s

theorem slotChanged_spares (i : SlotNo) (s : State) : Spares s (slotChanged i s) :=
  (((reportSlot_spares s i).trans (runFor_spares i _)).trans (auditCheck_spares i _)).trans (retireCheck_spares i _)

theorem rejectCore_spares (i : SlotNo) (r : RejectReason) (s : State) : Spares s (rejectCore i r s) :=
  ((setSlot_spares i _ s).trans (withdrawSlot_spares i _)).trans (.raise _ _ _ _)

theorem reject_spares (i : SlotNo) (r : RejectReason) (s : State) : Spares s (reject i r s) :=
  (rejectCore_spares i r s).trans (slotChanged_spares i _)

theorem rejectAll_spares (named : Identity → Bool) (r : RejectReason) (s : State) : Spares s (rejectAll named r s) :=
  .foldl _ _ (fun t i => .ite (fun _ => reject_spares i r t) fun _ => .refl t) s

end Sys2Proof.Machine
end

section
/-!
SUPPORT. Rejection of the slots that a key or a deny range names (R102, R109, R111): which slots, and the events.
-/

namespace Sys2Proof.Machine

/-! ## One slot -/

theorem slotState_setSlotState (i : SlotNo) (st : SlotState) (s : State) : ((s.setSlotState i st).slot i).state = st := by
  rw [State.setSlotState, slot_setSlot_same]

theorem reject_state (i : SlotNo) (r : RejectReason) (s : State) : ((reject i r s).slot i).state = .rejected r := by
  have hafter : Keeps (Foot.owed ++ Foot.raise ++ Foot.changed) (s.setSlotState i (.rejected r)) (reject i r s) :=
    ((withdrawSlot_keeps i _).mono.trans (raise_keeps _ _ _ _).mono).trans (slotChanged_keeps i _).mono
  exact (hafter .slotState (by decide +kernel) i).trans (slotState_setSlotState i _ s)

theorem reject_identity (i : SlotNo) (r : RejectReason) (s : State) : ((reject i r s).slot i).identity = (s.slot i).identity :=
  reject_keeps i r s .identity (by decide +kernel) i

/-! ## The slots named -/

/-- R109, R111: the slot is CHALLENGING or authenticated, and its identity is one that `named` names. -/
def Rejectable (named : Identity → Bool) (x : Slot) : Prop := x.state.revocable ∧ x.identity.any named

theorem rejectable_iff {named : Identity → Bool} {x : Slot} :
    Rejectable named x ↔ (x.state.isChallenging = true ∨ x.state.authenticated = true) ∧ ∃ id, x.identity = some id ∧ named id = true := by
  unfold Rejectable SlotState.revocable
  rw [Bool.or_eq_true, Option.any_eq_true]

theorem not_rejectable_rejected (named : Identity → Bool) {x : Slot} {r : RejectReason} (h : x.state = .rejected r) :
    ¬Rejectable named x := by
  rintro ⟨hstate, _⟩
  rw [h] at hstate
  cases hstate

variable {named : Identity → Bool} {r : RejectReason} {s : State}

theorem rejectNamed_named {i : SlotNo} (h : Rejectable named (s.slot i)) : rejectNamed named r s i = reject i r s := if_pos h

theorem rejectNamed_unnamed {i : SlotNo} (h : ¬Rejectable named (s.slot i)) : rejectNamed named r s i = s := if_neg h

theorem rejectNamed_others (i : SlotNo) : OtherSlotsSame i s (rejectNamed named r s i) :=
  .ite (fun _ => reject_others i r s) fun _ => .refl i s

theorem rejectFold_spared {i : SlotNo} (h : ¬Rejectable named (s.slot i)) (xs : List SlotNo) :
    (xs.foldl (rejectNamed named r) s).slot i = s.slot i := by
  refine List.foldlRecOn (motive := fun t : State => t.slot i = s.slot i) xs _ rfl fun t ht j _ => ?_
  by_cases hj : j = i
  · subst hj
    rw [rejectNamed_unnamed (ht ▸ h), ht]
  · exact (rejectNamed_others j i (Ne.symm hj)).trans ht

theorem rejectFold_rejected {i : SlotNo} (h : Rejectable named (s.slot i)) {xs : List SlotNo} (hi : i ∈ xs) :
    ((xs.foldl (rejectNamed named r) s).slot i).state = .rejected r := by
  induction xs generalizing s with
  | nil => cases hi
  | cons j xs ih =>
    rw [List.foldl_cons]
    by_cases hj : i = j
    · subst hj
      have hnow := reject_state i r s
      rw [rejectNamed_named h, rejectFold_spared (not_rejectable_rejected named hnow), hnow]
    · have hsame := rejectNamed_others (named := named) (r := r) (s := s) j i hj
      exact ih (hsame ▸ h) ((List.mem_cons.1 hi).resolve_left hj)

/-! ## The events -/

/-- AUTH_REJECTED for the slots of `xs` that are named, in their order. -/
def rejections (named : Identity → Bool) (r : RejectReason) (s : State) (xs : List SlotNo) : List Raised :=
  (xs.filter (fun i => (s.slot i).identity.any named && (s.slot i).state.revocable)).map (fun i => (.authRejected, .slot i, r.no))

theorem rejections_congr {t : State} {xs : List SlotNo} (h : ∀ i ∈ xs, t.slot i = s.slot i) :
    rejections named r t xs = rejections named r s xs := by
  unfold rejections
  exact congrArg _ (List.filter_congr fun i hi => by rw [h i hi])

theorem rejections_cons (i : SlotNo) (xs : List SlotNo) :
    rejections named r s (i :: xs) = rejections named r s [i] ++ rejections named r s xs := by
  unfold rejections
  rw [← List.map_append, ← List.filter_append, List.singleton_append]

/-- Events of a rejection: AUTH_REJECTED as listed, and besides only what the report of a slot's change of state raises. -/
def EmitsRejections (s t : State) (l : List Raised) : Prop :=
  ∃ all, (∀ e ∈ all, e.1 ∈ .authRejected :: changeKinds) ∧ all.filter (fun e => e.1 = .authRejected) = l ∧ Emits s t all

theorem EmitsRejections.trans {t u : State} {l m : List Raised} (h1 : EmitsRejections s t l) (h2 : EmitsRejections t u m) :
    EmitsRejections s u (l ++ m) := by
  obtain ⟨first, hfirst, rfl, he1⟩ := h1
  obtain ⟨second, hsecond, rfl, he2⟩ := h2
  exact ⟨first ++ second, fun e he => (List.mem_append.1 he).elim (hfirst e) (hsecond e), List.filter_append .., he1.trans he2⟩

theorem reject_emitsRejections (i : SlotNo) (r : RejectReason) (s : State) :
    EmitsRejections s (reject i r s) [(.authRejected, .slot i, r.no)] := by
  obtain ⟨more, hmore, hemits⟩ := slotChanged_only i (rejectCore i r s)
  have hnone : more.filter (fun e => e.1 = .authRejected) = [] := by
    refine List.filter_eq_nil_iff.2 fun e he => ?_
    have hkind : ∀ k ∈ changeKinds, k ≠ .authRejected := by decide
    simpa using hkind _ (hmore e he)
  refine ⟨_, fun e he => ?_, ?_, (rejectCore_emits i r s).trans hemits⟩
  · rcases List.mem_append.1 he with h | h
    · exact List.mem_singleton.1 h ▸ List.mem_cons_self ..
    · exact List.mem_cons_of_mem _ (hmore e h)
  · rw [List.filter_append, hnone]
    rfl

theorem rejectNamed_emitsRejections (i : SlotNo) : EmitsRejections s (rejectNamed named r s i) (rejections named r s [i]) := by
  have hlist : rejections named r s [i] =
      if (s.slot i).identity.any named && (s.slot i).state.revocable then [(.authRejected, .slot i, r.no)] else [] := by
    unfold rejections
    rw [List.filter_singleton]
    cases (s.slot i).identity.any named && (s.slot i).state.revocable <;> rfl
  rw [hlist]
  by_cases h : Rejectable named (s.slot i)
  · rw [rejectNamed_named h, if_pos (Bool.and_eq_true_iff.2 h.symm)]
    exact reject_emitsRejections i r s
  · rw [rejectNamed_unnamed h, if_neg fun hb => h (Bool.and_eq_true_iff.1 hb).symm]
    exact ⟨[], by simp, rfl, .refl s⟩

theorem rejectFold_emitsRejections {xs : List SlotNo} (hx : xs.Nodup) :
    EmitsRejections s (xs.foldl (rejectNamed named r) s) (rejections named r s xs) := by
  induction xs generalizing s with
  | nil => exact ⟨[], by simp, rfl, .refl s⟩
  | cons i xs ih =>
    obtain ⟨hi, hxs⟩ := List.nodup_cons.1 hx
    have hrest : rejections named r (rejectNamed named r s i) xs = rejections named r s xs :=
      rejections_congr fun j hj => rejectNamed_others i j fun e => hi (e ▸ hj)
    rw [List.foldl_cons, rejections_cons, ← hrest]
    exact (rejectNamed_emitsRejections i).trans (ih hxs)

/-- R109, R111: the rejections as the claims state them, with silent steps before and after. -/
theorem rejectsInOrder_rejectAll {a u : State} (hbefore : Emits a s []) (hslots : ∀ i, s.slot i = a.slot i)
    (hafter : Emits (rejectAll named r s) u []) : RejectsInOrder a u named r.no := by
  obtain ⟨all, hkinds, hlist, hemits⟩ := rejectFold_emitsRejections (named := named) (r := r) (s := s) (List.nodup_finRange 16)
  refine ⟨all, ((hbefore.after_silent hemits).then_silent hafter).raises, hkinds, hlist.trans ?_⟩
  exact rejections_congr fun i _ => hslots i

end Sys2Proof.Machine
end

section
/-!
DENY ADD, DENY REMOVE and DENY READ (R111, R112).
-/

namespace Sys2Proof.Machine

/-! ## The requests carried out and refused -/

/-- R111: the range joins the list. -/
def withRange (first last : Nat) (s : State) : State := { s with deny := s.deny ++ [{ first, last }] }

/-- R111: the identities that a range names. -/
def inRange (first last : Nat) (id : Identity) : Bool := first ≤ id.serial && id.serial ≤ last

variable {first last : Nat} {s : State}

theorem denyAdd_done (hm : s.mgmt.mode = .setup) (hle : first ≤ last) (hroom : s.deny.length < 32) (r : Request) :
    denyAdd [first, last] r s =
      rejectAll (inRange first last) .denied (r.reply .done (be 1 (s.deny.length + 1)) (withRange first last s)) := by
  simp only [denyAdd]
  rw [if_neg (not_not.2 hm), if_neg (Nat.not_lt.2 hle), if_neg (Nat.not_le.2 hroom), List.length_append, List.length_singleton]
  rfl

theorem denyAdd_bad (hm : s.mgmt.mode = .setup) (h : last < first) (r : Request) :
    denyAdd [first, last] r s = r.reply .badArgument [] s := by
  simp only [denyAdd]
  rw [if_neg (not_not.2 hm), if_pos h]

theorem denyAdd_full (hm : s.mgmt.mode = .setup) (hle : first ≤ last) (h : 32 ≤ s.deny.length) (r : Request) :
    denyAdd [first, last] r s = r.reply .full [] s := by
  simp only [denyAdd]
  rw [if_neg (not_not.2 hm), if_neg (Nat.not_lt.2 hle), if_pos h]

theorem denyRemove_wrongMode (hm : s.mgmt.mode ≠ .setup) (n : Nat) (r : Request) : denyRemove [n] r s = r.reply .wrongMode [] s :=
  if_pos hm

theorem denyRemove_notFound {n : Nat} (hm : s.mgmt.mode = .setup) (h : s.deny.length ≤ n) (r : Request) :
    denyRemove [n] r s = r.reply .notFound [] s := by
  simp only [denyRemove]
  rw [if_neg (not_not.2 hm), if_pos h]

theorem denyRemove_done {n : Nat} (hm : s.mgmt.mode = .setup) (h : n < s.deny.length) (r : Request) :
    denyRemove [n] r s =
      r.reply .done (be 1 (s.deny.length - 1)) { s with deny := s.deny.take n ++ s.deny.drop (n + 1) } := by
  simp only [denyRemove]
  rw [if_neg (not_not.2 hm), if_neg (Nat.not_le.2 h), List.eraseIdx_eq_take_drop_succ]

/-! ## DENY ADD -/

/-- DENY ADD up to the rejections: it changes the list and the requests, and its response waits. -/
theorem denyAdd_request {tag : Byte} {args : List Byte} {rest : List Request}
    (hs : Serves s { tag, kind := 16#16, args } rest) (ha : fields [6, 6] args = some [first, last]) (hm : s.mgmt.mode = .setup)
    (hle : first ≤ last) (hroom : s.deny.length < 32) :
    ∃ u, exec .denyAdd s = .next (settle (rejectAll (inRange first last) .denied u)) ∧ u.deny = s.deny ++ [{ first := first, last := last }] ∧
      OutFrame.response { tag, kind := 16#16, status := .done, results := be 1 (s.deny.length + 1) } ∈ ownFrames u ∧
      Keeps (.denyList :: .requests :: Foot.answer) s u := by
  have hx := live_served (withArgs [6, 6] denyAdd) hs rfl
  rw [withArgs_fit _ _ ha, denyAdd_done (s := takeRequest rest s) hm hle hroom] at hx
  refine ⟨_, hx, rfl, ?_, ((takeRequest_keeps rest s).mono.trans (denyUpdate_keeps _ _).mono).trans (reply_keeps _ _ _ _).mono⟩
  rw [ownFrames_reply]
  exact List.mem_append_right _ (List.mem_singleton.2 rfl)

theorem decide_inRange (first last : Nat) : (fun id : Identity => decide (first ≤ id.serial ∧ id.serial ≤ last)) = inRange first last := by
  funext id
  exact Bool.decide_and _ _

theorem inRange_iff {id : Identity} : inRange first last id = true ↔ first ≤ id.serial ∧ id.serial ≤ last := by
  simp [inRange]

theorem not_rejectable_of_outside {x : Slot}
    (h : (∀ id, x.identity = some id → id.serial < first ∨ last < id.serial) ∨
      (x.state.isChallenging = false ∧ x.state.authenticated = false)) : ¬Rejectable (inRange first last) x := by
  rw [rejectable_iff]
  rintro ⟨hstate, id, hid, hin⟩
  rw [inRange_iff] at hin
  rcases h with hout | ⟨hc, ha⟩
  · have := hout id hid
    omega
  · simp [hc, ha] at hstate

/-- Settles O46: the requests on the deny list, each from its own rule. -/
theorem denyListRequests : Obligations.DenyListRequests := by
  unfold Obligations.DenyListRequests
  refine ⟨?_, ?_, ?_, ?_, ?_, ?_⟩
  · intro s tag args rest first last hs ha hm hle hroom
    obtain ⟨u, hx, hdeny, hanswer, hbefore⟩ := denyAdd_request hs ha hm hle hroom
    have hslot (i : SlotNo) : u.slot i = s.slot i := slot_of_keeps hbefore (by decide +kernel) i
    refine ⟨_, hx, ?_, ?_, fun i id hid hlo hhi hstate => ?_, fun i hout => ?_, ?_, exec_keeps _ s _ rfl hx⟩
    · exact ((settle_keeps _).get .denyList).trans (((rejectAll_keeps _ _ u).get .denyList).trans hdeny)
    · rw [ownFrames_settle]
      exact (rejectAll_spares _ _ u).mem_ownFrames hanswer
    · rw [settle_slot]
      refine rejectFold_rejected ?_ (List.mem_finRange i)
      rw [hslot i, rejectable_iff]
      exact ⟨hstate, id, hid, inRange_iff.2 ⟨hlo, hhi⟩⟩
    · rw [settle_slot]
      refine (rejectFold_spared ?_ _).trans (hslot i)
      rw [hslot i]
      exact not_rejectable_of_outside hout
    · rw [decide_inRange]
      exact rejectsInOrder_rejectAll (r := .denied) (.of_keeps hbefore) hslot (settle_emits _)
  · intro s args first last ha hm
    refine ⟨fun h => ?_, fun hle h => ?_⟩
    all_goals
      refine carries_of_live (carry := withArgs [6, 6] denyAdd) rfl rfl rfl fun tag rest => ?_
      rw [withArgs_fit _ _ ha]
    · exact denyAdd_bad (s := takeRequest rest s) hm h _
    · exact denyAdd_full (s := takeRequest rest s) hm hle h _
  · intro s n hm
    refine carries_of_quiet (carry := withArgs [1] denyRemove) rfl rfl rfl fun tag rest => ?_
    rw [withArgs_fit _ _ (fields_byte n)]
    exact denyRemove_wrongMode (s := takeRequest rest s) hm _ _
  · intro s n hm h
    refine carries_of_quiet (carry := withArgs [1] denyRemove) rfl rfl rfl fun tag rest => ?_
    rw [withArgs_fit _ _ (fields_byte n)]
    exact denyRemove_notFound (s := takeRequest rest s) hm h _
  · intro s n hm h
    refine carries_of_quiet (carry := withArgs [1] denyRemove) rfl rfl rfl fun tag rest => ?_
    rw [withArgs_fit _ _ (fields_byte n)]
    exact denyRemove_done (s := takeRequest rest s) hm h _
  · intro s
    exact carries_of_quiet (carry := withArgs [] denyRead) rfl rfl rfl fun tag rest => rfl

end Sys2Proof.Machine
end

section
/-!
The answer to an IDENTIFY (R72, R83, R96, R97).
-/

namespace Sys2Proof.Machine

/-! ## A transaction that ends well (R72, R82, R83) -/

/-- R83, R91: the line has nothing in flight, and has counted the transaction completed. -/
def ended (l : LineNo) (s : State) : State :=
  setFlight l none (modCounters l (fun k => { k with completed := sat32 (k.completed + 1) }) s)

theorem ended_endedWell (l : LineNo) (s : State) : EndedWell s (ended l s) l := by
  unfold EndedWell ended setFlight modCounters
  simp only [line_setLine_same, and_self]

theorem ended_keeps (l : LineNo) (s : State) : Keeps [.lines] s (ended l s) := (setLine_keeps s _ _).trans (setLine_keeps _ _ _)

theorem EndedWell.spared {s t u : State} {l : LineNo} (h : EndedWell s t l) (hs : Spares t u) : EndedWell s u l :=
  ⟨hs.idle l h.1, (hs.counters l).trans h.2⟩

theorem EndedWell.settle {s t : State} {l : LineNo} (h : EndedWell s t l) : EndedWell s (settle t) l := by
  have hline : (Machine.settle t).line l = t.line l := congrArg (nth · l) ((settle_keeps t).get .lines)
  unfold EndedWell
  rw [hline]
  exact h

theorem judge_ok {fl : Flight} {a : AnswerFrame} {p : List Byte} (h : AnswersOk fl a p) : fl.entry.judge a = .ok p := by
  obtain ⟨hcheck, hecho, hstatus, rfl, hlength⟩ := h
  unfold TxEntry.judge
  rw [if_neg (by simp [hcheck, hecho]), if_pos hstatus, if_pos hlength]

theorem answerFrame_ok {s : State} {l : LineNo} {fl : Flight} {a : AnswerFrame} {p : List Byte} (h : Awaiting s l fl)
    (ha : AnswersOk fl a p) : answerFrame l a s = succeed l fl (some p) false s := by
  obtain ⟨hflight, hwithdrawn, ms, hphase⟩ := h
  simp only [answerFrame, hflight, hphase, judge_ok ha, tryEnded, hwithdrawn, Bool.false_eq_true, if_false]

theorem succeed_identify {fl : Flight} (hk : fl.entry.kind = .identify) (l : LineNo) (p : List Byte) (s : State) :
    succeed l fl (some p) false s = identified fl.entry.slot p (ended l s) := by
  unfold succeed
  rw [hk]
  rfl

/-! ## The checks (R97) -/

section
variable {s : State} {i : SlotNo} {id : Identity} {marker : Bool}

theorem markerOf_iff (p : List Byte) : markerOf p = true ↔ part 14 1 p ≠ 0 := decide_eq_true_iff

theorem inkDiffers_iff {ink : Nat} : inkDiffers s i ink = true ↔ ∃ c, channelOf s i = some c ∧ (s.chan c).ink ≠ ink := by
  unfold inkDiffers
  cases channelOf s i <;> simp

theorem denied_iff {serial : Nat} : denied s serial = true ↔ ∃ r ∈ s.deny, r.first ≤ serial ∧ serial ≤ r.last := by
  simp [denied]

theorem exhaustedEntry_iff {serial : Nat} :
    exhaustedEntry s serial = true ↔ ∃ n e, s.history.find serial = some n ∧ s.history.entry n = some e ∧ e.state = .exhausted := by
  unfold exhaustedEntry
  cases s.history.find serial with
  | none => simp
  | some n => simp [Option.any_eq_true]

theorem keyCheck_unknown {keyId : Nat} (h : 8 ≤ keyId ∨ ∃ k : KeyNo, keyId = k.val ∧ nth s.keys.image k = .empty) :
    keyCheck s keyId = some .keyUnknown := by
  unfold keyCheck
  rcases h with h | ⟨k, hk, he⟩
  · rw [asFin_eq_none h]
  · rw [asFin_of_val hk]
    simp only [he]

theorem keyCheck_revoked {keyId : Nat} (h : ∃ (k : KeyNo) (x : BitVec 128), keyId = k.val ∧ nth s.keys.image k = .revoked x) :
    keyCheck s keyId = some .keyRevoked := by
  obtain ⟨k, x, hk, he⟩ := h
  unfold keyCheck
  rw [asFin_of_val hk]
  simp only [he]

theorem keyCheck_loaded {keyId : Nat} (hu : ¬(8 ≤ keyId ∨ ∃ k : KeyNo, keyId = k.val ∧ nth s.keys.image k = .empty))
    (hr : ¬∃ (k : KeyNo) (x : BitVec 128), keyId = k.val ∧ nth s.keys.image k = .revoked x) : keyCheck s keyId = none := by
  obtain ⟨hlt, hempty⟩ := not_or.1 hu
  let k : KeyNo := ⟨keyId, Nat.not_le.1 hlt⟩
  have hk : keyId = k.val := rfl
  unfold keyCheck
  rw [asFin_of_val hk]
  cases he : nth s.keys.image k with
  | empty => exact absurd ⟨k, hk, he⟩ hempty
  | revoked x => exact absurd ⟨k, x, hk, he⟩ hr
  | loaded x => simp only [he]

theorem identifyCheck_badRecord (h : id.capacity = 0) : identifyCheck s i id marker = some .badRecord := if_pos h

theorem identifyCheck_marked (hb : id.capacity ≠ 0) (h : marker = true) : identifyCheck s i id marker = some .exhausted := by
  rw [identifyCheck, if_neg hb, if_pos h]

theorem identifyCheck_ink (hb : id.capacity ≠ 0) (hm : ¬marker = true) (h : inkDiffers s i id.ink = true) :
    identifyCheck s i id marker = some .inkType := by
  rw [identifyCheck, if_neg hb, if_neg hm, if_pos h]

theorem identifyCheck_denied (hb : id.capacity ≠ 0) (hm : ¬marker = true) (hi : ¬inkDiffers s i id.ink = true)
    (h : denied s id.serial = true) : identifyCheck s i id marker = some .denied := by
  rw [identifyCheck, if_neg hb, if_neg hm, if_neg hi, if_pos h]

/-- The checks that look at the tag alone, its channel and the deny list do not apply: the key decides, then the history. -/
theorem identifyCheck_keyed (hb : id.capacity ≠ 0) (hm : ¬marker = true) (hi : ¬inkDiffers s i id.ink = true)
    (hd : ¬denied s id.serial = true) :
    identifyCheck s i id marker = (keyCheck s id.keyId).or (if exhaustedEntry s id.serial then some .exhausted else none) := by
  rw [identifyCheck, if_neg hb, if_neg hm, if_neg hi, if_neg hd]
  cases keyCheck s id.keyId <;> rfl

/-! ## The outcome (R96, R97, R102) -/

/-- R96: the slot takes the identity that the answer holds. -/
def withIdentity (i : SlotNo) (p : List Byte) (s : State) : State := s.setSlot i { s.slot i with identity := some (identityOf p) }

/-- R96: the slot is CHALLENGING, and its first challenge is placed. -/
def firstChallenge (i : SlotNo) (s : State) : State := request i .challenge (s.setSlotState i (.challenging .first))

variable {p : List Byte}

theorem identified_rejects {r : RejectReason} (h : (s.slot i).state = .identifying)
    (hc : identifyCheck s i (identityOf p) (markerOf p) = some r) : identified i p s = reject i r (withIdentity i p s) := by
  unfold identified
  rw [if_pos h]
  dsimp only
  split
  · next q hq =>
    cases hq.symm.trans hc
    rfl
  · next hq => cases hq.symm.trans hc

theorem identified_passes (h : (s.slot i).state = .identifying) (hc : identifyCheck s i (identityOf p) (markerOf p) = none) :
    identified i p s = slotChanged i (firstChallenge i (withIdentity i p s)) := by
  unfold identified
  rw [if_pos h]
  dsimp only
  split
  · next q hq => cases hq.symm.trans hc
  · rfl

/-- An identification is checked: the slot takes the identity and is rejected, or is challenged. -/
theorem identified_cases (h : (s.slot i).state = .identifying) :
    (∃ r, identified i p s = reject i r (withIdentity i p s)) ∨
      identified i p s = slotChanged i (firstChallenge i (withIdentity i p s)) := by
  cases hc : identifyCheck s i (identityOf p) (markerOf p) with
  | some r => exact .inl ⟨r, identified_rejects h hc⟩
  | none => exact .inr (identified_passes h hc)

theorem withIdentity_others (i : SlotNo) (p : List Byte) (s : State) : OtherSlotsSame i s (withIdentity i p s) := setSlot_others s i _

theorem firstChallenge_keeps (i : SlotNo) (s : State) : Keeps [.slotState, .lines] s (firstChallenge i s) :=
  (setSlotState_keeps s i _).mono.trans (request_keeps i _ _).mono

theorem identified_spares (h : (s.slot i).state = .identifying) : Spares s (identified i p s) := by
  have named : Spares s (withIdentity i p s) := setSlot_spares i _ s
  rcases identified_cases (p := p) h with ⟨r, e⟩ | e <;> rw [e]
  · exact named.trans (reject_spares i r _)
  · exact ((named.trans (setSlot_spares i _ _)).trans (request_spares i _ _)).trans (slotChanged_spares i _)

theorem identified_identity (h : (s.slot i).state = .identifying) :
    ((identified i p s).slot i).identity = some (identityOf p) := by
  have named : ((withIdentity i p s).slot i).identity = some (identityOf p) := by rw [withIdentity, slot_setSlot_same]
  rcases identified_cases (p := p) h with ⟨r, e⟩ | e <;> rw [e]
  · exact (reject_identity i r _).trans named
  · have hafter : Keeps (.slotState :: Foot.changed) (withIdentity i p s) (slotChanged i (firstChallenge i (withIdentity i p s))) :=
      (firstChallenge_keeps i _).mono.trans (slotChanged_keeps i _).mono
    exact (hafter .identity (by decide +kernel) i).trans named

theorem identified_others (h : (s.slot i).state = .identifying) : OtherSlotsSame i s (identified i p s) := by
  rcases identified_cases (p := p) h with ⟨r, e⟩ | e <;> rw [e]
  · exact (withIdentity_others i p s).trans (reject_others i r _)
  · exact (((withIdentity_others i p s).trans (setSlotState_others _ i _)).trans (.of_keeps (request_keeps i _ _))).trans
      (slotChanged_others i _)

end

/-! ## The whole step -/

section
variable {s : State} {i : SlotNo} {p : List Byte} (l : LineNo)

theorem withIdentity_ended_emits (i : SlotNo) (p : List Byte) (s : State) : Emits s (withIdentity i p (ended l s)) [] :=
  (Emits.of_keeps (ended_keeps l s)).then_silent (.of_keeps (setSlot_keeps _ i _))

theorem identified_ended_rejects {r : RejectReason} (h : (s.slot i).state = .identifying)
    (hc : identifyCheck s i (identityOf p) (markerOf p) = some r) :
    ((settle (identified i p (ended l s))).slot i).state = .rejected r ∧
      RaisesThen s (settle (identified i p (ended l s))) [(.authRejected, .slot i, r.no)] changeKinds := by
  rw [identified_rejects (s := ended l s) h hc, settle_slot]
  refine ⟨reject_state i r _, EmitsOnly.raisesThen ((withIdentity_ended_emits l i p s).after_silent (rejectCore_emits i r _)) ?_⟩
  exact (slotChanged_only i _).trans (.silent (settle_emits _))

theorem identified_ended_passes (h : (s.slot i).state = .identifying)
    (hc : identifyCheck s i (identityOf p) (markerOf p) = none) :
    ((settle (identified i p (ended l s))).slot i).state = .challenging .first ∧
      isPending (settle (identified i p (ended l s))) i .challenge = true ∧
      RaisesThen s (settle (identified i p (ended l s))) [] changeKinds := by
  rw [identified_passes (s := ended l s) h hc, settle_slot, isPending_settle]
  generalize hu : withIdentity i p (ended l s) = u
  refine ⟨?_, ?_, EmitsOnly.raisesThen (t := firstChallenge i u) ?_ ((slotChanged_only i _).trans (.silent (settle_emits _)))⟩
  · have hstate := slotState_setSlotState i (.challenging .first) u
    have hplaced := request_keeps i .challenge (u.setSlotState i (.challenging .first)) .slotState (by decide) i
    exact (slotChanged_keeps i (firstChallenge i u) .slotState (by decide +kernel) i).trans (hplaced.trans hstate)
  · exact pendingKept_slotChanged i _ i .challenge (by decide) (request_pending i .challenge _ (by decide))
  · exact (hu ▸ withIdentity_ended_emits l i p s).then_silent (.of_keeps (firstChallenge_keeps i u))

end

/-- Settles O25: the checks of R97 in their order, each by its own lemma. -/
theorem identifyAnswerIsChecked : Obligations.IdentifyAnswerIsChecked := by
  unfold Obligations.IdentifyAnswerIsChecked
  intro s l a fl p hp hawait hkind hok hstate i id bad mark ink deny unknown revoked used rejects
  have hx : exec (.answerFrame l a) s = .next (settle (identified i p (ended l s))) := by
    rw [← succeed_identify hkind, ← answerFrame_ok hawait hok]
    exact live_powered hp
  have hrejects (r : RejectReason) (hc : identifyCheck s i id (markerOf p) = some r) :
      rejects (settle (identified i p (ended l s))) r r.no := identified_ended_rejects l hstate hc
  have hmark (h : ¬mark) : ¬markerOf p = true := mt (markerOf_iff p).1 h
  have hink (h : ¬ink) : ¬inkDiffers s i id.ink = true := mt inkDiffers_iff.1 h
  have hdeny (h : ¬deny) : ¬denied s id.serial = true := mt denied_iff.1 h
  have hkey {o : Option RejectReason} (hb : ¬bad) (hm : ¬mark) (hi : ¬ink) (hd : ¬deny) (ho : keyCheck s id.keyId = o) :
      identifyCheck s i id (markerOf p) = o.or (if exhaustedEntry s id.serial then some .exhausted else none) :=
    ho ▸ identifyCheck_keyed hb (hmark hm) (hink hi) (hdeny hd)
  refine ⟨_, hx, ((ended_endedWell l s).spared (identified_spares hstate)).settle, ?_, fun hb => ?_, fun hb hm => ?_, fun hb hm hi => ?_,
    fun hb hm hi hd => ?_, fun hb hm hi hd hu => ?_, fun hb hm hi hd hr => ?_, fun hb hm hi hd hu hr hused => ?_,
    fun hb hm hi hd hu hr hused => ?_, fun j hj => ?_, exec_keeps _ s _ rfl hx⟩
  · rw [settle_slot]
    exact identified_identity (s := ended l s) hstate
  · exact hrejects .badRecord (identifyCheck_badRecord hb)
  · exact hrejects .exhausted (identifyCheck_marked hb ((markerOf_iff p).2 hm))
  · exact hrejects .inkType (identifyCheck_ink hb (hmark hm) (inkDiffers_iff.2 hi))
  · exact hrejects .denied (identifyCheck_denied hb (hmark hm) (hink hi) (denied_iff.2 hd))
  · exact hrejects .keyUnknown (hkey hb hm hi hd (keyCheck_unknown hu))
  · exact hrejects .keyRevoked (hkey hb hm hi hd (keyCheck_revoked hr))
  · refine hrejects .exhausted ((hkey hb hm hi hd (keyCheck_loaded hu hr)).trans ?_)
    rw [if_pos (exhaustedEntry_iff.2 hused), Option.none_or]
  · refine identified_ended_passes l hstate ((hkey hb hm hi hd (keyCheck_loaded hu hr)).trans ?_)
    rw [if_neg (mt exhaustedEntry_iff.1 hused), Option.none_or]
  · rw [settle_slot]
    exact identified_others (s := ended l s) hstate j hj

end Sys2Proof.Machine
end

section
/-!
The places that a line gives to its owed marks (R84, R86): the entries that the marks stand for join the queue in their order until places
or marks run out.
-/

namespace Sys2Proof.Machine

/-! ## One position -/

/-- R86's order of the kinds within a position. -/
def markOrder : List TxKind := [.challenge, .identify, .usageWrite, .markExhausted, .recordRead]

/-- The entry that an owed mark of kind `k` at position `p` stands for. -/
def markEntry (l : LineNo) (p : TagPos) (o : Owed) (k : TxKind) : TxEntry :=
  { slot := slotAt l p, kind := k, requester := k.requester, origin := .other, record := if k = .recordRead then o.recordRead else none }

/-- The entries that the marks of one position stand for, in R86's order. -/
def Owed.entries (l : LineNo) (p : TagPos) (o : Owed) : List TxEntry := (markOrder.filter o.has).map (markEntry l p o)

theorem owedEntries_eq (l : LineNo) (ln : Line) :
    owedEntries l ln = (List.finRange 4).flatMap fun p => (nth ln.owed p).entries l p := rfl

theorem Owed.entries_of_first_none (l : LineNo) (p : TagPos) {o : Owed} (h : o.first = none) : o.entries l p = [] := by
  have hnone : markOrder.filter o.has = [] := List.filter_eq_nil_iff.2 (List.find?_eq_none.1 h)
  rw [Owed.entries, hnone, List.map_nil]

theorem markEntry_clear (l : LineNo) (p : TagPos) (o : Owed) {k k' : TxKind} (h : k' ≠ k) :
    markEntry l p (o.clear k) k' = markEntry l p o k' := by
  unfold markEntry
  cases k <;> cases k' <;> first | rfl | exact absurd rfl h

/-- R86: the first mark of a position goes first, and clearing it leaves the others in their order. -/
theorem Owed.entries_of_first (l : LineNo) (p : TagPos) {o : Owed} {k : TxKind} (h : o.first = some k) :
    o.entries l p = markEntry l p o k :: (o.clear k).entries l p := by
  have hhead : (markOrder.filter o.has).head? = some k := (List.head?_filter ..).trans h
  obtain ⟨rest, hrest⟩ := List.head?_eq_some_iff.1 hhead
  have hnodup : (k :: rest).Nodup := hrest ▸ (by decide : markOrder.Nodup).filter _
  have hne : ∀ k' ∈ rest, k' ≠ k := fun k' hk' e => (List.nodup_cons.1 hnodup).1 (e ▸ hk')
  have hcleared : markOrder.filter (o.clear k).has = rest := by
    have hsplit : (o.clear k).has = fun k' => decide (k' ≠ k) && o.has k' := by
      funext k'
      rw [Owed.has_clear, Bool.and_comm]
    rw [hsplit, ← List.filter_filter, hrest, List.filter_cons_of_neg (by simp), List.filter_eq_self]
    exact fun k' hk' => decide_eq_true (hne k' hk')
  rw [Owed.entries, Owed.entries, hrest, hcleared, List.map_cons]
  exact congrArg _ (List.map_congr_left fun k' hk' => (markEntry_clear l p o (hne k' hk')).symm)

theorem Owed.entries_empty (l : LineNo) (p : TagPos) : Owed.entries l p {} = [] := rfl

/-! ## One line -/

theorem Line.owedEntries_of_nextOwed_none (l : LineNo) {ln : Line} (h : ln.nextOwed = none) : owedEntries l ln = [] := by
  refine List.flatMap_eq_nil_iff.2 fun p _ => Owed.entries_of_first_none l p ?_
  simpa using List.findSome?_eq_none_iff.1 h p (List.mem_finRange p)

/-- R86 over some of the positions: the lowest that has a mark gives its first. -/
theorem entries_of_findSome (l : LineNo) (owed : Tbl 4 Owed) {p : TagPos} {k : TxKind} {ps : List TagPos} (hps : ps.Nodup)
    (h : ps.findSome? (fun q => (nth owed q).first.map (fun k => (q, k))) = some (p, k)) :
    (ps.flatMap fun q => (nth owed q).entries l q) =
      markEntry l p (nth owed p) k :: ps.flatMap fun q => (nth (upd owed p ((nth owed p).clear k)) q).entries l q := by
  induction ps with
  | nil => cases h
  | cons q ps ih =>
    obtain ⟨hq, hps⟩ := List.nodup_cons.1 hps
    rw [List.flatMap_cons, List.flatMap_cons]
    cases hfirst : (nth owed q).first with
    | none =>
      rw [List.findSome?_cons, hfirst] at h
      have hp : p ∈ ps := by
        obtain ⟨q', hq', e⟩ := List.exists_of_findSome?_eq_some h
        obtain ⟨_, _, e⟩ := Option.map_eq_some_iff.1 e
        cases e
        exact hq'
      have hne : p ≠ q := fun e => hq (e ▸ hp)
      rw [nth_upd_ne _ _ hne, Owed.entries_of_first_none l q hfirst, List.nil_append, List.nil_append]
      exact ih hps h
    | some k' =>
      rw [List.findSome?_cons, hfirst] at h
      cases h
      have hothers : (ps.flatMap fun r => (nth (upd owed p ((nth owed p).clear k)) r).entries l r) =
          ps.flatMap fun r => (nth owed r).entries l r :=
        List.flatMap_congr fun r hr => by rw [nth_upd_ne _ _ fun e : p = r => hq (e ▸ hr)]
      rw [nth_upd_same, hothers, Owed.entries_of_first l p hfirst, List.cons_append]

theorem Line.owedEntries_of_nextOwed (l : LineNo) {ln : Line} {p : TagPos} {k : TxKind} (h : ln.nextOwed = some (p, k)) :
    owedEntries l ln =
      markEntry l p (nth ln.owed p) k :: owedEntries l { ln with owed := upd ln.owed p ((nth ln.owed p).clear k) } :=
  entries_of_findSome l ln.owed (List.nodup_finRange 4) h

theorem owedEntries_eq_nil_iff (l : LineNo) (ln : Line) : owedEntries l ln = [] ↔ ∀ p k, (nth ln.owed p).has k = false := by
  refine ⟨fun h p k => ?_, fun h => ?_⟩
  · cases hn : ln.nextOwed with
    | none => exact Line.no_marks_of_nextOwed_none hn p k
    | some m => cases (Line.owedEntries_of_nextOwed l hn).symm.trans h
  · refine List.flatMap_eq_nil_iff.2 fun p _ => ?_
    rw [List.filter_eq_nil_iff.2 fun k _ => by simp [h p k], List.map_nil]

/-! ## Serving the marks -/

/-- R86: `x` is the line `ln` with the first `m` of its owed marks given their places. -/
def Line.Gives (l : LineNo) (ln x : Line) (m : Nat) : Prop :=
  x.queue = ln.queue ++ (owedEntries l ln).take m ∧ owedEntries l x = (owedEntries l ln).drop m

theorem Line.serveOne_full (l : LineNo) {ln : Line} (h : 8 ≤ ln.queue.length) : ln.serveOne l = ln := if_neg (Nat.not_lt.2 h)

theorem Line.serveOne_unmarked (l : LineNo) {ln : Line} (h : ln.nextOwed = none) : ln.serveOne l = ln := by
  unfold Line.serveOne
  rw [h]
  exact ite_self _

theorem Line.serveOne_marked (l : LineNo) {ln : Line} {p : TagPos} {k : TxKind} (hq : ln.queue.length < 8)
    (h : ln.nextOwed = some (p, k)) :
    ln.serveOne l =
      { ln with queue := ln.queue ++ [markEntry l p (nth ln.owed p) k], owed := upd ln.owed p ((nth ln.owed p).clear k) } := by
  unfold Line.serveOne
  rw [h]
  exact if_pos hq

/-- R86: one more place is given if the line has one. -/
theorem Line.Gives.serveOne {l : LineNo} {ln x : Line} {n : Nat} (h : ln.Gives l x (min n (8 - ln.queue.length))) :
    ln.Gives l (x.serveOne l) (min (n + 1) (8 - ln.queue.length)) := by
  obtain ⟨hqueue, hmarks⟩ := h
  have hlength : x.queue.length = ln.queue.length + min (min n (8 - ln.queue.length)) (owedEntries l ln).length := by
    rw [hqueue, List.length_append, List.length_take]
  cases hn : x.nextOwed with
  | none =>
    have hdone := hmarks.symm.trans (x.owedEntries_of_nextOwed_none l hn)
    have hle := List.drop_eq_nil_iff.1 hdone
    have hle' : (owedEntries l ln).length ≤ min (n + 1) (8 - ln.queue.length) := by omega
    rw [serveOne_unmarked l hn]
    refine ⟨?_, ?_⟩
    · rw [hqueue, List.take_of_length_le hle, List.take_of_length_le hle']
    · rw [hmarks, hdone, List.drop_eq_nil_of_le hle']
  | some m =>
    obtain ⟨p, k⟩ := m
    have hdrop := hmarks.symm.trans (x.owedEntries_of_nextOwed l hn)
    have hmore : min n (8 - ln.queue.length) < (owedEntries l ln).length := by
      by_contra hle
      rw [List.drop_eq_nil_of_le (Nat.not_lt.1 hle)] at hdrop
      cases hdrop
    by_cases hfull : 8 ≤ x.queue.length
    · have hsame : min (n + 1) (8 - ln.queue.length) = min n (8 - ln.queue.length) := by omega
      rw [serveOne_full l hfull, hsame]
      exact ⟨hqueue, hmarks⟩
    · have hnext : min (n + 1) (8 - ln.queue.length) = min n (8 - ln.queue.length) + 1 := by omega
      obtain ⟨hget, hrest⟩ := List.cons.inj ((List.drop_eq_getElem_cons hmore).symm.trans hdrop)
      rw [serveOne_marked l (Nat.not_le.1 hfull) hn, hnext]
      refine ⟨?_, hrest.symm⟩
      dsimp only
      rw [hqueue, List.take_succ_eq_append_getElem hmore, hget, List.append_assoc]

/-- R86: serving the marks gives the free places to them, in their order. -/
theorem Line.serveMarks_placesGiven (l : LineNo) (ln : Line) : PlacesGiven l ln.queue (owedEntries l ln) (ln.serveMarks l) := by
  have steps (n : Nat) : ln.Gives l ((List.range n).foldl (fun x _ => x.serveOne l) ln) (min n (8 - ln.queue.length)) := by
    induction n with
    | zero => simp [Line.Gives]
    | succ n ih =>
      rw [List.range_succ, List.foldl_append]
      exact ih.serveOne
  have hsteps := steps 8
  rwa [Nat.min_eq_right (Nat.sub_le ..)] at hsteps

/-- A line with no place free, or no mark, has none to give. -/
def Line.Served (ln : Line) : Prop := 8 ≤ ln.queue.length ∨ ln.nextOwed = none

theorem Line.Served.serveMarks {ln : Line} (h : ln.Served) (l : LineNo) : ln.serveMarks l = ln := by
  have hone : ln.serveOne l = ln := h.elim (serveOne_full l) (serveOne_unmarked l)
  exact List.foldlRecOn (motive := (· = ln)) _ _ rfl fun x hx _ _ => by rw [hx, hone]

theorem Line.serveMarks_served (l : LineNo) (ln : Line) : (ln.serveMarks l).Served := by
  obtain ⟨hqueue, hmarks⟩ := ln.serveMarks_placesGiven l
  by_cases hfull : 8 ≤ (ln.serveMarks l).queue.length
  · exact .inl hfull
  · refine .inr ?_
    have hall : (owedEntries l ln).length ≤ 8 - ln.queue.length := by
      rw [hqueue, List.length_append, List.length_take] at hfull
      omega
    rw [List.drop_eq_nil_of_le hall] at hmarks
    cases hn : (ln.serveMarks l).nextOwed with
    | none => rfl
    | some m => cases (Line.owedEntries_of_nextOwed l hn).symm.trans hmarks

end Sys2Proof.Machine
end

section
/-!
The start of a transaction (R81, R82, R84, R86, R98, R120, R125).
-/

namespace Sys2Proof.Machine

variable {s : State} {l : LineNo} {e : TxEntry} {rest : List TxEntry}

/-- R81, R82: the first try of the entry, with what is supplied for it. -/
def firstTry (e : TxEntry) (s : State) : Flight :=
  { entry := e, payload := (supplyPayload e s).1, tryNo := 1, withdrawn := false, phase := .awaiting 20 }

/-- R84: a RUNNING or DRAINING line with nothing in flight starts its oldest entry. -/
def CanStart (s : State) (l : LineNo) (e : TxEntry) (rest : List TxEntry) : Prop :=
  ((s.line l).condition = .running ∨ (s.line l).condition = .draining) ∧ (s.line l).flight = none ∧ (s.line l).queue = e :: rest

/-- The line with the entry in flight and its place not yet given away. -/
def startedLine (s : State) (l : LineNo) (e : TxEntry) (rest : List TxEntry) : Line :=
  { s.line l with queue := rest, flight := some (firstTry e s) }

theorem transactionStart_starts (h : CanStart s l e rest) :
    transactionStart l s =
      sendOn l (firstTry e s) ((supplyPayload e s).2.setLine l ((startedLine s l e rest).serveMarks l)) := by
  obtain ⟨hcondition, hflight, hqueue⟩ := h
  have hmay : (s.line l).mayStart = true := by
    unfold Line.mayStart
    rcases hcondition with h | h <;> rw [h]
  unfold transactionStart
  dsimp only
  rw [hflight, hqueue]
  exact if_pos hmay

theorem transactionStart_idle
    (h : (s.line l).condition = .held ∨ (s.line l).condition = .stopped ∨ (s.line l).flight ≠ none ∨ (s.line l).queue = []) :
    transactionStart l s = s := by
  have barred (hm : (s.line l).mayStart = false) : transactionStart l s = s := by
    unfold transactionStart
    dsimp only
    split
    · rw [hm]
      rfl
    · rfl
  unfold Line.mayStart at barred
  rcases h with h | h | h | h
  · exact barred (by rw [h])
  · exact barred (by rw [h])
  · obtain ⟨fl, hfl⟩ := Option.ne_none_iff_exists'.1 h
    unfold transactionStart
    dsimp only
    rw [hfl]
  · unfold transactionStart
    dsimp only
    rw [h]
    cases (s.line l).flight <;> rfl

theorem supplyPayload_lines (e : TxEntry) (s : State) : (supplyPayload e s).2.lines = s.lines := by
  unfold supplyPayload
  cases e.kind
  case usageWrite =>
    dsimp only
    split <;> rfl
  all_goals rfl

theorem supplyPayload_busOut (e : TxEntry) (s : State) : (supplyPayload e s).2.busOut = s.busOut := by
  unfold supplyPayload
  cases e.kind
  case usageWrite =>
    dsimp only
    split <;> rfl
  all_goals rfl

theorem supplyPayload_plain (h : e.kind = .identify ∨ e.kind = .markExhausted) : (supplyPayload e s).1 = .plain := by
  unfold supplyPayload
  rcases h with h | h <;> rw [h]

/-- R98: a nonce is given out for a CHALLENGE alone. -/
theorem supplyPayload_nonceNext (h : e.kind ≠ .challenge) : (supplyPayload e s).2.nonceNext = s.nonceNext := by
  unfold supplyPayload
  cases hk : e.kind
  case challenge => exact absurd hk h
  case usageWrite =>
    dsimp only
    split <;> rfl
  all_goals rfl

theorem supplyPayload_challenge (h : e.kind = .challenge) :
    supplyPayload e s = (.nonce (Config.nonce (BitVec.ofNat 64 s.nonceNext)), { s with nonceNext := s.nonceNext + 1 }) := by
  unfold supplyPayload
  rw [h]

theorem supplyPayload_recordRead {n : RecNo} (h : e.kind = .recordRead) (hn : e.record = some n) : (supplyPayload e s).1 = .index n := by
  unfold supplyPayload
  rw [h]
  dsimp only
  rw [hn, Option.getD_some]

/-- R120, R125: a usage write takes its capture, and uses up the arm that names its slot. -/
theorem supplyPayload_usageWrite (h : e.kind = .usageWrite) :
    (supplyPayload e s).1 = capture s e.slot ∧
      (supplyPayload e s).2.testArm = if s.testArm = some e.slot then none else s.testArm := by
  unfold supplyPayload
  rw [h]
  refine ⟨rfl, ?_⟩
  dsimp only
  split <;> rfl

/-- R120: the capture of a slot whose key entry the part holds. -/
theorem capture_keyed {i : SlotNo} {id : Identity} {k : KeyNo} (hid : (s.slot i).identity = some id) (hk : id.keyId = k.val) :
    capture s i =
      let code := Config.recordCode (nth s.keys.image k).secret id.serial (expectedSequence (s.slot i).sequence) (s.slot i).consumed
      .usage (s.slot i).consumed Config.partIdentity (if s.testArm = some i then ~~~code else code) := by
  have hsecret : secretOf s id = (nth s.keys.image k).secret := by
    unfold secretOf
    rw [asFin_of_val hk]
  unfold capture
  dsimp only
  rw [hid]
  dsimp only
  rw [hsecret]

namespace CartridgeBus

/-- Settles O24: the line after the start is the started line with its marks served, and `serveMarks_placesGiven` says what they get. -/
theorem transactionStart : Obligations.TransactionStart := by
  unfold Obligations.TransactionStart
  refine ⟨fun s l e rest hp hcondition hflight hqueue => ?_, fun s l hp hidle => ?_,
    fun s l e rest id k hp hcondition hflight hqueue hkind hid hk => ?_⟩
  · have hstart := transactionStart_starts ⟨hcondition, hflight, hqueue⟩
    have hx : exec (.transactionStart l) s = .next (kickLane (Machine.transactionStart l s)) := quiet_powered hp
    have hlines := supplyPayload_lines e s
    obtain ⟨hcond, hfl, hcounters⟩ := (startedLine s l e rest).serveMarks_rest l
    have hgiven := (startedLine s l e rest).serveMarks_placesGiven l
    have hline : (kickLane (Machine.transactionStart l s)).line l = (startedLine s l e rest).serveMarks l := by
      rw [hstart]
      exact line_setLine_same ..
    refine ⟨_, firstTry e s, hx, ?_, rfl, rfl, rfl, rfl, ?_, supplyPayload_plain, fun hk => ?_, fun hk => ?_,
      fun n hk hn => supplyPayload_recordRead hk hn, fun hnone => ?_, ?_, ?_, ?_, fun m hm => ?_, exec_keeps _ s _ rfl hx⟩
    · rw [hline, hfl]
      rfl
    · rw [hstart]
      exact congrArg (· ++ _) (supplyPayload_busOut e s)
    · rw [hstart]
      unfold firstTry
      rw [supplyPayload_challenge hk]
      exact ⟨rfl, rfl⟩
    · rw [hstart]
      exact supplyPayload_nonceNext hk
    · have hempty : owedEntries l (startedLine s l e rest) = [] := (owedEntries_eq_nil_iff l _).2 hnone
      rw [hline, hgiven.1, hempty, List.take_nil, List.append_nil]
      rfl
    · rw [hline]
      exact hgiven
    · rw [hline, hcond]
      rfl
    · rw [hline, hcounters]
      rfl
    · rw [hstart]
      exact (line_setLine_other _ _ hm).trans (congrArg (nth · m) hlines)
  · refine ⟨_, quiet_powered hp, ?_⟩
    rw [transactionStart_idle hidle]
    exact kickLane_keeps s
  · have hstart := transactionStart_starts ⟨hcondition, hflight, hqueue⟩
    obtain ⟨hpayload, harm⟩ := supplyPayload_usageWrite (s := s) hkind
    refine ⟨_, firstTry e s, quiet_powered hp, ?_, hpayload.trans (capture_keyed hid hk), ?_⟩
    · rw [hstart]
      refine (congrArg Line.flight (line_setLine_same ..)).trans ?_
      rw [((startedLine s l e rest).serveMarks_rest l).2.1]
      rfl
    · rw [hstart]
      exact harm

end CartridgeBus

end Sys2Proof.Machine
end

section
/-!
The ends of the history scan and of cell writes (R90, R107-R109, R130, R132, R134), and the history image across a step.
-/

namespace Sys2Proof.Machine

/-! ## The history across a step (R132) -/

/-- A frame that names no part of the history keeps it whole. -/
theorem history_of_keeps {fs : List Part} {s t : State} (h : Keeps fs s t)
    (hf : ∀ p ∈ [Part.historyCells, .historyImage, .historyWrites, .historyScan], p ∉ fs := by decide +kernel) :
    t.history = s.history := by
  have hcells := h .historyCells (hf _ (by decide))
  have himage := h .historyImage (hf _ (by decide))
  have hwrites := h .historyWrites (hf _ (by decide))
  have hscan := h .historyScan (hf _ (by decide))
  simp only [Part.same] at hcells himage hwrites hscan
  cases ht : t.history
  cases hs : s.history
  simp_all

/-- R132: the history with the write of the oldest pending index started, if nothing is being written. -/
def History.kicked (h : History) : History :=
  if h.scanning || h.writing.isSome then h
  else match h.pending with
    | [] => h
    | n :: rest => { h with pending := rest, writing := some { index := n, image := h.entry n } }

theorem kickHistory_history (s : State) : (kickHistory s).history = s.history.kicked := by
  unfold kickHistory History.kicked
  split
  · rfl
  · cases s.history.pending <;> rfl

theorem History.kicked_starts {h : History} {n : HistNo} {rest : List HistNo} (hscan : h.scanning = false) (hwriting : h.writing = none)
    (hpending : h.pending = n :: rest) :
    h.kicked = { h with pending := rest, writing := some { index := n, image := h.entry n } } := by
  unfold History.kicked
  rw [hscan, hwriting, hpending]
  rfl

theorem History.kicked_idle {h : History} (hpending : h.pending = []) : h.kicked = h := by
  unfold History.kicked
  rw [hpending]
  exact ite_self _

/-- The end of a step starts the next write, and leaves the history alone otherwise. -/
theorem settle_history (s : State) : (settle s).history = s.history.kicked := by
  have hreport : (reportConditions s).history = s.history := history_of_keeps (reportConditions_keeps s)
  rw [← hreport, ← kickHistory_history]
  exact history_of_keeps (kickLane_keeps _)

theorem settle_entry (s : State) (n : HistNo) : (settle s).history.entry n = s.history.entry n :=
  congrArg (nth · n) ((settle_keeps s).get .historyImage)

/-! ## SCAN_END (R90, R134) -/

/-- R130, R134: what the end of the scan makes of an entry. -/
def HistoryEntry.scanned (now : Nat) (e : HistoryEntry) : HistoryEntry :=
  if e.state = .inUse then { e with state := .removed, lastSeen := now } else e

theorem HistoryEntry.scanned_scanned (now : Nat) (e : HistoryEntry) : (e.scanned now).scanned now = e.scanned now := by
  unfold scanned
  by_cases h : e.state = .inUse
  · rw [if_pos h]
    rfl
  · rw [if_neg h, if_neg h]

theorem put_entry (s : State) (n m : HistNo) (e : Option HistoryEntry) :
    (s.history.put n e).entry m = if n = m then e else s.history.entry m := nth_upd _ _ _ _

theorem scanPlace_entry (s : State) (n m : HistNo) :
    (scanPlace s n).history.entry m =
      if n = m then (s.history.entry m).map (HistoryEntry.scanned s.mgmt.partTime) else s.history.entry m := by
  have same (h : n = m → (s.history.entry m).map (HistoryEntry.scanned s.mgmt.partTime) = s.history.entry m) :
      s.history.entry m = if n = m then (s.history.entry m).map (HistoryEntry.scanned s.mgmt.partTime) else s.history.entry m := by
    split
    · exact (h ‹_›).symm
    · rfl
  unfold scanPlace
  cases he : s.history.entry n with
  | none =>
    refine same fun hm => ?_
    subst hm
    rw [he, Option.map_none]
  | some e =>
    dsimp only
    by_cases hin : e.state = .inUse
    · rw [if_pos hin]
      refine (put_entry s n m _).trans ?_
      split
      · next hm =>
        subst hm
        rw [he, Option.map_some, HistoryEntry.scanned, if_pos hin]
      · rfl
    · rw [if_neg hin]
      refine same fun hm => ?_
      subst hm
      rw [he, Option.map_some, HistoryEntry.scanned, if_neg hin]

/-- The places taken one after the other: each entry is scanned once, however often its place is taken. -/
theorem scanPlaces_entry (ns : List HistNo) (s : State) (m : HistNo) :
    (ns.foldl scanPlace s).history.entry m =
      if m ∈ ns then (s.history.entry m).map (HistoryEntry.scanned s.mgmt.partTime) else s.history.entry m := by
  induction ns generalizing s with
  | nil => rw [List.foldl_nil, if_neg List.not_mem_nil]
  | cons n ns ih =>
    have hnow : (scanPlace s n).mgmt.partTime = s.mgmt.partTime := (scanPlace_keeps s n).get .partTime
    rw [List.foldl_cons, ih, scanPlace_entry, hnow]
    by_cases hn : n = m
    · subst hn
      rw [if_pos rfl, if_pos List.mem_cons_self, Option.map_map]
      split
      · refine congrArg (Option.map · _) (funext fun e => ?_)
        exact HistoryEntry.scanned_scanned _ e
      · rfl
    · simp only [if_neg hn, List.mem_cons, Ne.symm hn, false_or]

theorem scanEnd_entry {s : State} (h : s.history.scanning = true) (m : HistNo) :
    (scanEnd s).history.entry m = (s.history.entry m).map (HistoryEntry.scanned s.mgmt.partTime) := by
  have hfold := scanPlaces_entry (List.finRange 64) s m
  rw [if_pos (List.mem_finRange m)] at hfold
  unfold scanEnd
  rw [if_pos h]
  generalize (List.finRange 64).foldl scanPlace s = u at hfold ⊢
  exact hfold

theorem Line.release_eq (m : Mode) (ln : Line) :
    ln.release m =
      { ln with
        condition := if ln.condition = .held then (if m = .standby then .draining else .running) else ln.condition } := by
  obtain ⟨condition, _, _, _, _⟩ := ln
  cases condition <;> rfl

/-! ## HISTORY_WRITE_END and KEY_WRITE_END -/

/-- R132: the history as the write leaves it, the next write waiting. -/
def History.written (h : History) (w : HistoryWrite) : History := { h with cells := upd h.cells w.index w.image, writing := none }

theorem historyWriteEnd_writes {s : State} {w : HistoryWrite} (h : s.history.writing = some w) :
    (historyWriteEnd s).history = s.history.written w := by
  unfold historyWriteEnd
  rw [h]
  rfl

/-- R107: the key store as the write leaves it, the next write waiting. -/
def KeyStore.written (k : KeyStore) (w : KeyWrite) : KeyStore :=
  { k with cells := upd k.cells w.key w.entry, image := upd k.image w.key w.entry, current := none }

theorem KeyStore.advance_idle {k : KeyStore} (h : k.current = none) :
    k.advance = { k with current := k.waiting.head?, waiting := k.waiting.tail } := by
  unfold KeyStore.advance
  obtain ⟨cells, image, current, waiting⟩ := k
  cases waiting <;> subst h <;> rfl

theorem keyWriteEnd_writes {s : State} {w : KeyWrite} (h : s.keys.current = some w) :
    keyWriteEnd s =
      respond w.tag w.kind .done []
        { s with keys := { s.keys.written w with current := s.keys.waiting.head?, waiting := s.keys.waiting.tail } } := by
  unfold keyWriteEnd
  rw [h]
  exact congrArg (fun k => respond w.tag w.kind .done [] { s with keys := k }) (KeyStore.advance_idle (k := s.keys.written w) rfl)

/-- Settles O33: each end by what its command makes of the cells, and the frame of the command. -/
theorem scanAndCellWriteEnds : Obligations.ScanAndCellWriteEnds := by
  unfold Obligations.ScanAndCellWriteEnds
  refine ⟨fun s hp hscan => ?_, fun s hp hscan => ?_, fun s w hp hscan hw => ?_, fun s w hp hw => ?_⟩
  · have hx : exec .scanEnd s = .next (settle (scanEnd s)) := live_powered hp
    refine ⟨_, hx, ?_, fun n hn => ?_, fun n e hn => ?_, fun l => ?_, exec_keeps _ s _ rfl hx⟩
    · refine ((settle_keeps _).get .historyScan).trans ?_
      unfold scanEnd
      rw [if_pos hscan]
    · rw [settle_entry, scanEnd_entry hscan, hn, Option.map_none]
    · rw [settle_entry, scanEnd_entry hscan, hn, Option.map_some]
      rfl
    · have hline : (settle (scanEnd s)).line l = (scanEnd s).line l := congrArg (nth · l) ((settle_keeps _).get .lines)
      rw [hline, scanEnd_line hscan, Line.release_eq]
  · refine ⟨_, live_powered hp, ?_⟩
    rw [scanEnd_idle (by simp [hscan])]
    exact settle_keeps s
  · have hx : exec .historyWriteEnd s = .next (settle (historyWriteEnd s)) := live_powered hp
    have hcells : (settle (historyWriteEnd s)).history.cells = upd s.history.cells w.index w.image :=
      ((settle_keeps _).get .historyCells).trans (congrArg History.cells (historyWriteEnd_writes hw))
    refine ⟨_, hx, ?_, fun n hn => ?_, fun n rest hpending => ?_, fun hpending => ?_, exec_keeps _ s _ rfl hx⟩
    · rw [hcells, nth_upd_same]
    · rw [hcells, nth_upd_ne _ _ (Ne.symm hn)]
    · rw [settle_history, historyWriteEnd_writes hw, History.kicked_starts (h := s.history.written w) hscan rfl hpending]
      exact ⟨rfl, rfl⟩
    · rw [settle_history, historyWriteEnd_writes hw, History.kicked_idle (h := s.history.written w) hpending]
      exact ⟨rfl, hpending⟩
  · have hx : exec .keyWriteEnd s = .next (kickLane (keyWriteEnd s)) := quiet_powered hp
    refine ⟨_, hx, ?_, ?_, fun k hk => ?_, ?_, ?_, ?_, ?_, exec_keeps _ s _ rfl hx⟩ <;> rw [keyWriteEnd_writes hw]
    · exact nth_upd_same ..
    · exact nth_upd_same ..
    · exact ⟨nth_upd_ne _ _ (Ne.symm hk), nth_upd_ne _ _ (Ne.symm hk)⟩
    · rfl
    · rfl
    · rfl
    · exact lastAnswer_kickLane.2 (lastAnswer_placeResponse ..)

end Sys2Proof.Machine
end

section
/-!
The report of a slot's change of state where it meets no audit, no feed list or no pending transaction (R6, R15, R151), and the withdrawal
of a slot's transactions (R86, R87).
-/

namespace Sys2Proof.Machine

variable {s t : State} {i : SlotNo}

/-! ## The report of a change -/

theorem heldSlot_congr (h : t.audit = s.audit) : heldSlot t = heldSlot s := by
  unfold heldSlot
  rw [h]

theorem channelOf_congr (h : ∀ c, t.chan c = s.chan c) (i : SlotNo) : channelOf t i = channelOf s i := by
  unfold channelOf
  simp only [h]

/-- R151: no audit ends whose slot stays eligible, or is another. -/
theorem auditCheck_spared (h : heldSlot s ≠ some i ∨ (s.slot i).state.auditEligible = true) : auditCheck i s = s := by
  unfold auditCheck
  by_cases hheld : heldSlot s = some i
  · rw [if_pos hheld]
    exact if_pos (h.resolve_left (not_not_intro hheld))
  · exact if_neg hheld

theorem auditCheck_ends (hheld : heldSlot s = some i) (hstate : (s.slot i).state.auditEligible = false) :
    auditCheck i s = auditEnd (some (if (s.slot i).state = .empty then .slotGone else .slotState)) s := by
  unfold auditCheck
  rw [if_pos hheld]
  dsimp only
  rw [if_neg (by simp [hstate])]
  split <;> rfl

/-- A report that ends no audit makes a selection run, and what follows it. -/
theorem slotChanged_spared_keeps (h : heldSlot s ≠ some i ∨ (s.slot i).state.auditEligible = true) :
    Keeps Foot.run s (slotChanged i s) := by
  have hrun : Keeps Foot.run s (runFor i (reportSlot s i)) := (reportSlot_keeps s i).mono.trans (runFor_keeps i _)
  have hcheck : auditCheck i (runFor i (reportSlot s i)) = runFor i (reportSlot s i) := by
    refine auditCheck_spared ?_
    rw [heldSlot_congr (hrun.get .audit), (hrun.get .slotState) i]
    exact h
  unfold slotChanged slotChecks
  rw [hcheck]
  exact hrun.trans (retireCheck_keeps i _).mono

/-- R6: no selection run is made for a slot in no feed list. -/
theorem slotChanged_unfed (h : channelOf s i = none) : slotChanged i s = slotChecks i (reportSlot s i) := by
  have hnone : channelOf (reportSlot s i) i = none := (channelOf_congr (chan_of_keeps (reportSlot_keeps s i)) i).trans h
  unfold slotChanged runFor
  rw [hnone]

theorem slotChanged_silent (hfeed : channelOf s i = none) (hheld : heldSlot s ≠ some i) : Emits s (slotChanged i s) [] := by
  have hreport := reportSlot_keeps s i
  have hcheck : auditCheck i (reportSlot s i) = reportSlot s i :=
    auditCheck_spared (.inl (by rwa [heldSlot_congr (hreport.get .audit)]))
  rw [slotChanged_unfed hfeed]
  unfold slotChecks
  rw [hcheck]
  exact (Emits.of_keeps hreport).then_silent (.of_keeps (retireCheck_keeps i _))

theorem slotChanged_slotState (i j : SlotNo) (s : State) : ((slotChanged i s).slot j).state = (s.slot j).state :=
  slotChanged_keeps i s .slotState (by decide +kernel) j

/-! ## A slot that owes no commit -/

theorem serveOwedCommit_unowed (h : (s.slot i).owedCommit = false) : serveOwedCommit i s = s := if_pos h

/-- R153: an audit's end changes no record of a slot that owes no commit. -/
theorem auditEnd_unowed_keeps (hslot : s.audit.slot = some i) (h : (s.slot i).owedCommit = false) (r : Option AbortReason) :
    Keeps ([.audit, .lines] ++ Foot.raise) s (auditEnd r s) := by
  have hserve (a : Audit) : serveOwedCommit i (withdrawRead i (s.setAudit a)) = withdrawRead i (s.setAudit a) := serveOwedCommit_unowed h
  unfold auditEnd
  rw [hslot]
  dsimp only
  rw [hserve]
  exact ((setAudit_keeps s _).mono.trans (withdrawRead_keeps _ _).mono).trans (raise_keeps _ _ _ _).mono

theorem auditCheck_unowed_keeps (h : (s.slot i).owedCommit = false) : Keeps ([.audit, .lines] ++ Foot.raise) s (auditCheck i s) := by
  by_cases hspared : heldSlot s ≠ some i ∨ (s.slot i).state.auditEligible = true
  · rw [auditCheck_spared hspared]
    exact .refl _ s
  · obtain ⟨hheld, hstate⟩ := not_or.1 hspared
    have hheld := not_not.1 hheld
    rw [auditCheck_ends hheld (by simpa using hstate)]
    exact auditEnd_unowed_keeps (heldSlot_slot hheld) h _

theorem slotChanged_unowed_keeps (h : (s.slot i).owedCommit = false) :
    Keeps ([.audit, .lines] ++ Foot.run) s (slotChanged i s) := by
  have hrun : Keeps Foot.run s (runFor i (reportSlot s i)) := (reportSlot_keeps s i).mono.trans (runFor_keeps i _)
  have hcheck := auditCheck_unowed_keeps (s := runFor i (reportSlot s i)) (((hrun.get .owedCommit) i).trans h)
  exact (hrun.mono.trans hcheck.mono).trans (retireCheck_keeps i _).mono

/-! ## Withdrawal (R86, R87) -/

/-- R87: the line with a slot's transactions withdrawn, before the free places are given to marks. -/
def Line.without (ln : Line) (i : SlotNo) : Line :=
  { ln.withdraw (fun e => e.slot == i) with owed := upd ln.owed (posOf i) {} }

theorem withdrawSlot_unowed (h : (s.slot i).owedCommit = false) :
    withdrawSlot i s = s.setLine (lineOf i) (((s.line (lineOf i)).without i).serveMarks (lineOf i)) := by
  unfold withdrawSlot
  dsimp only
  split
  · exact serveOwedCommit_unowed h
  · rfl

theorem Line.without_queue (ln : Line) (i : SlotNo) : (ln.without i).queue = ln.queue.filter (fun e => e.slot ≠ i) :=
  List.filter_congr fun e _ => by by_cases h : e.slot = i <;> simp [h]

/-- R86: the marks of the other slots stay, in their order. -/
theorem Line.owedEntries_without (ln : Line) (i : SlotNo) :
    owedEntries (lineOf i) (ln.without i) = (owedEntries (lineOf i) ln).filter (fun e => e.slot ≠ i) := by
  rw [owedEntries_eq, owedEntries_eq, List.filter_flatMap]
  refine List.flatMap_congr fun p _ => ?_
  have hslot : ∀ e ∈ Owed.entries (lineOf i) p (nth ln.owed p), e.slot = slotAt (lineOf i) p := fun e he => by
    obtain ⟨_, _, rfl⟩ := List.mem_map.1 he
    rfl
  by_cases hp : p = posOf i
  · have hnone : (Owed.entries (lineOf i) p (nth ln.owed p)).filter (fun e => e.slot ≠ i) = [] :=
      List.filter_eq_nil_iff.2 fun e he => by simp [hslot e he, hp, slotAt_lineOf]
    have hempty : nth (ln.without i).owed p = {} := by rw [hp]; exact nth_upd_same ..
    rw [hnone, hempty, Owed.entries_empty]
  · have hne : slotAt (lineOf i) p ≠ i := fun e => hp (by rw [← posOf_slotAt (lineOf i) p, e])
    have hsame : nth (ln.without i).owed p = nth ln.owed p := nth_upd_ne _ _ (Ne.symm hp)
    rw [hsame, List.filter_eq_self.2 fun e he => by simp [hslot e he, hne]]

/-- R87: nothing of the slot stands on the line but a withdrawn transaction that awaits its answer. -/
structure Line.Lacks (ln : Line) (i : SlotNo) : Prop where
  queue : ∀ e ∈ ln.queue, e.slot ≠ i
  owed : nth ln.owed (posOf i) = {}
  flight : ∀ fl, ln.flight = some fl → fl.entry.slot = i → fl.withdrawn = true ∧ ∃ ms, fl.phase = .awaiting ms

theorem Line.without_lacks (ln : Line) (i : SlotNo) : (ln.without i).Lacks i where
  queue e he := by
    rw [without_queue] at he
    simpa using (List.mem_filter.1 he).2
  owed := nth_upd_same ..
  flight fl hfl hslot := by
    simp only [Line.without, Line.withdraw] at hfl
    cases hf : ln.flight with
    | none =>
      rw [hf] at hfl
      cases hfl
    | some was =>
      rw [hf] at hfl
      dsimp only at hfl
      split at hfl
      · cases hphase : was.phase with
        | awaiting ms =>
          rw [hphase] at hfl
          cases hfl
          exact ⟨rfl, ms, rfl⟩
        | pausing ms =>
          rw [hphase] at hfl
          cases hfl
      · next hother =>
        cases hfl
        exact absurd (beq_iff_eq.2 hslot) hother

theorem Line.Lacks.serveOne {ln : Line} (h : ln.Lacks i) : (ln.serveOne (lineOf i)).Lacks i := by
  by_cases hfull : 8 ≤ ln.queue.length
  · rwa [serveOne_full _ hfull]
  · cases hn : ln.nextOwed with
    | none => rwa [serveOne_unmarked _ hn]
    | some m =>
      obtain ⟨p, k⟩ := m
      have hp : p ≠ posOf i := fun e => by
        have hhas := Line.nextOwed_has hn
        rw [e, h.owed] at hhas
        cases k <;> cases hhas
      rw [serveOne_marked _ (Nat.not_le.1 hfull) hn]
      refine ⟨fun e he => ?_, (nth_upd_ne _ _ hp).trans h.owed, h.flight⟩
      rcases List.mem_append.1 he with he | he
      · exact h.queue e he
      · rw [List.mem_singleton.1 he]
        exact fun hslot => hp (by rw [← posOf_slotAt (lineOf i) p]; exact congrArg posOf hslot)

theorem Line.Lacks.serveMarks {ln : Line} (h : ln.Lacks i) : (ln.serveMarks (lineOf i)).Lacks i :=
  List.foldlRecOn (motive := fun x : Line => x.Lacks i) _ _ h fun _ hx _ _ => hx.serveOne

theorem Line.Lacks.no_marks {ln : Line} (h : ln.Lacks i) (k : TxKind) : (nth ln.owed (posOf i)).has k = false := by
  rw [h.owed]
  cases k <;> rfl

/-- R153: the line with a slot's RECORD READ withdrawn, before the free places are given to marks. -/
def Line.withoutRead (ln : Line) (i : SlotNo) : Line :=
  { ln.withdraw (fun e => e.slot == i && e.kind == .recordRead) with
    owed := upd ln.owed (posOf i) { nth ln.owed (posOf i) with recordRead := none } }

theorem withdrawRead_eq (i : SlotNo) (s : State) :
    withdrawRead i s = s.setLine (lineOf i) (((s.line (lineOf i)).withoutRead i).serveMarks (lineOf i)) := rfl

/-- R153: where nothing of the slot is left, its audit's RECORD READ is not there to be withdrawn. -/
theorem Line.Lacks.withoutRead {ln : Line} (h : ln.Lacks i) : ln.withoutRead i = ln := by
  have hqueue : ln.queue.filter (fun e => !(e.slot == i && e.kind == .recordRead)) = ln.queue :=
    List.filter_eq_self.2 fun e he => by simp [h.queue e he]
  have howed : upd ln.owed (posOf i) { nth ln.owed (posOf i) with recordRead := none } = ln.owed := tbl_ext fun p => by
    rw [nth_upd]
    split
    · next hp => rw [← hp, h.owed]
    · rfl
  have hflight : (ln.withdraw (fun e => e.slot == i && e.kind == .recordRead)).flight = ln.flight := by
    unfold Line.withdraw
    cases hf : ln.flight with
    | none => rfl
    | some fl =>
      dsimp only
      split
      · next hhit =>
        obtain ⟨hwithdrawn, ms, hphase⟩ := h.flight fl hf (beq_iff_eq.1 (Bool.and_eq_true_iff.1 hhit).1)
        rw [hphase]
        dsimp only
        rw [← hwithdrawn, ← hphase]
      · rfl
  unfold Line.withoutRead
  rw [howed]
  unfold Line.withdraw at hflight ⊢
  dsimp only at hflight ⊢
  rw [hqueue, hflight]

theorem setLine_self (s : State) (l : LineNo) : s.setLine l (s.line l) = s := by
  have hlines : upd s.lines l (s.line l) = s.lines := tbl_ext fun m => by
    rw [nth_upd]
    split
    · next e => rw [← e]; rfl
    · rfl
  unfold State.setLine
  rw [hlines]

/-- R87, R153: the report of a slot of which nothing is left on its line changes no line. -/
theorem slotChanged_lines_of_lacks (h : (s.slot i).owedCommit = false) (hlacks : (s.line (lineOf i)).Lacks i)
    (hserved : (s.line (lineOf i)).Served) : (slotChanged i s).lines = s.lines := by
  have hrun : Keeps Foot.run s (runFor i (reportSlot s i)) := (reportSlot_keeps s i).mono.trans (runFor_keeps i _)
  have hlines : (runFor i (reportSlot s i)).lines = s.lines := hrun.get .lines
  have howed := ((hrun.get .owedCommit) i).trans h
  generalize hu : runFor i (reportSlot s i) = u at hlines howed
  have hline : u.line (lineOf i) = s.line (lineOf i) := congrArg (nth · (lineOf i)) hlines
  have hcheck : (auditCheck i u).lines = u.lines := by
    by_cases hspared : heldSlot u ≠ some i ∨ (u.slot i).state.auditEligible = true
    · rw [auditCheck_spared hspared]
    · obtain ⟨hheld, hstate⟩ := not_or.1 hspared
      have hheld := not_not.1 hheld
      rw [auditCheck_ends hheld (by simpa using hstate)]
      have hnothing (a : Audit) : withdrawRead i (u.setAudit a) = u.setAudit a := by
        rw [withdrawRead_eq, line_setAudit, hline, hlacks.withoutRead, hserved.serveMarks, ← hline]
        exact setLine_self (u.setAudit a) (lineOf i)
      have hserve (a : Audit) : serveOwedCommit i (u.setAudit a) = u.setAudit a := serveOwedCommit_unowed howed
      unfold auditEnd
      rw [heldSlot_slot hheld]
      dsimp only
      rw [hnothing, hserve]
      exact (raise_keeps _ _ _ _).get .lines
  have hlast : (slotChanged i s).lines = (auditCheck i u).lines := by
    rw [← hu]
    exact (retireCheck_keeps i _).get .lines
  rw [hlast, hcheck, hlines]

end Sys2Proof.Machine
end

section
/-!
The update of a held history entry (R93, R130, R132) and a condition report that reaches latches and indicators (R174, R175, R178), as
Safety.lean states them.
-/

namespace Sys2Proof.Machine

variable {s t u : State} {i : SlotNo}

/-! ## A held entry (R93, R130) -/

/-- R93: slot `i` holds the entry `e`, which stands at place `n`. -/
def HoldsEntry (s : State) (i : SlotNo) (n : HistNo) (e : HistoryEntry) : Prop :=
  (s.slot i).lastAuth ≠ none ∧ (s.slot i).serial? = some e.serial ∧ s.history.find e.serial = some n ∧ s.history.entry n = some e

/-- The same slot record and history: the slot holds the same entry. -/
theorem holdsEntry_congr (hauth : (t.slot i).lastAuth = (s.slot i).lastAuth) (hid : (t.slot i).identity = (s.slot i).identity)
    (hhistory : t.history = s.history) (n : HistNo) (e : HistoryEntry) : HoldsEntry t i n e ↔ HoldsEntry s i n e := by
  unfold HoldsEntry Slot.serial?
  rw [hauth, hid, hhistory]

theorem holds_iff (sl : Slot) : sl.holds = true ↔ sl.lastAuth ≠ none := Option.isSome_iff_ne_none

theorem find_entry {h : History} {serial : Nat} {n : HistNo} (hfind : h.find serial = some n) :
    ∃ e, h.entry n = some e ∧ e.serial = serial := by
  have hplace := List.find?_some hfind
  cases he : h.entry n with
  | none =>
    rw [he] at hplace
    cases hplace
  | some e =>
    rw [he] at hplace
    exact ⟨e, rfl, beq_iff_eq.1 hplace⟩

/-- R130, R132: the entry held takes an update, with its last-seen time and a pending write. -/
theorem updateHeld_holds {n : HistNo} {e : HistoryEntry} (h : HoldsEntry s i n e) (f : Slot → HistoryEntry → HistoryEntry) :
    (updateHeld i f s).history = s.history.put n (some { f (s.slot i) e with lastSeen := s.mgmt.partTime }) := by
  obtain ⟨hauth, hserial, hfind, hentry⟩ := h
  unfold updateHeld
  dsimp only
  rw [hserial]
  dsimp only
  rw [if_pos ((holds_iff _).2 hauth)]
  unfold updateEntry
  rw [hfind]
  dsimp only
  rw [hentry]

theorem updateHeld_unheld (h : ∀ n e, ¬HoldsEntry s i n e) (f : Slot → HistoryEntry → HistoryEntry) : updateHeld i f s = s := by
  unfold updateHeld
  dsimp only
  cases hserial : (s.slot i).serial? with
  | none => rfl
  | some serial =>
    dsimp only
    split
    · next hholds =>
      unfold updateEntry
      cases hfind : s.history.find serial with
      | none => rfl
      | some n =>
        obtain ⟨e, hentry, rfl⟩ := find_entry hfind
        exact absurd ⟨(holds_iff _).1 hholds, hserial, hfind, hentry⟩ (h n e)
    · rfl

/-- R132: a write of the place is pending or in progress. -/
def History.WriteDue (h : History) (n : HistNo) : Prop := n ∈ h.pending ∨ ∃ w, h.writing = some w ∧ w.index = n

theorem History.WriteDue.kicked {h : History} {n : HistNo} (hdue : h.WriteDue n) : h.kicked.WriteDue n := by
  by_cases hwaits : h.scanning || h.writing.isSome
  · have hsame : h.kicked = h := if_pos hwaits
    rwa [hsame]
  · obtain ⟨hscan, hwriting⟩ : h.scanning = false ∧ h.writing = none := by simpa using hwaits
    cases hpending : h.pending with
    | nil => rwa [h.kicked_idle hpending]
    | cons m rest =>
      rw [h.kicked_starts hscan hwriting hpending]
      rcases hdue with hdue | ⟨w, hw, _⟩
      · rw [hpending] at hdue
        rcases List.mem_cons.1 hdue with rfl | hdue
        · exact .inr ⟨_, rfl, rfl⟩
        · exact .inl hdue
      · cases hwriting.symm.trans hw

theorem History.put_writeDue (h : History) (n : HistNo) (e : Option HistoryEntry) : (h.put n e).WriteDue n := by
  refine .inl ?_
  unfold History.put
  dsimp only
  split
  · assumption
  · exact List.mem_append_right _ (List.mem_singleton_self n)

theorem History.kicked_entry (h : History) (n : HistNo) : h.kicked.entry n = h.entry n := by
  unfold History.kicked
  split
  · rfl
  · split <;> rfl

/-- R130: a step that updates the entry of slot `i` in a state `u` with the records of `s`, and touches no history place besides. -/
theorem heldEntryTakes_of_updateHeld {update : HistoryEntry → HistoryEntry} {f : Slot → HistoryEntry → HistoryEntry}
    (hauth : (u.slot i).lastAuth = (s.slot i).lastAuth) (hid : (u.slot i).identity = (s.slot i).identity)
    (hhistory : u.history = s.history) (hnow : u.mgmt.partTime = s.mgmt.partTime)
    (ht : t.history = (updateHeld i f u).history.kicked)
    (hf : ∀ e, { f (u.slot i) e with lastSeen := s.mgmt.partTime } = { update e with lastSeen := s.mgmt.partTime }) :
    HeldEntryTakes s t i update := by
  have hentry (m : HistNo) : t.history.entry m = (updateHeld i f u).history.entry m := by rw [ht, History.kicked_entry]
  refine ⟨fun n e hheld => ?_, fun hnone m => ?_⟩
  · have hu := updateHeld_holds ((holdsEntry_congr hauth hid hhistory n e).2 hheld) f
    have hput (m : HistNo) : t.history.entry m =
        if n = m then some { f (u.slot i) e with lastSeen := u.mgmt.partTime } else s.history.entry m := by
      rw [hentry, hu, put_entry, hhistory]
    refine ⟨?_, ?_, fun m hm => ?_⟩
    · rw [hput, if_pos rfl, hnow, hf]
    · have hdue : t.history.WriteDue n := by
        rw [ht, hu]
        exact (History.put_writeDue ..).kicked
      exact hdue
    · rw [hput, if_neg (Ne.symm hm)]
  · have hu : updateHeld i f u = u := updateHeld_unheld (fun n e h => hnone n e ((holdsEntry_congr hauth hid hhistory n e).1 h)) f
    rw [hentry, hu, hhistory]

/-- R93: another slot holds the entry of the serial. -/
theorem heldBeside_iff {serial : Nat} :
    heldBeside s serial (some i) = true ↔
      ∃ j : SlotNo, j ≠ i ∧ (s.slot j).lastAuth ≠ none ∧ (s.slot j).serial? = some serial := by
  simp [heldBeside, holds_iff, and_assoc]

/-! ## A condition report (R174, R175, R178) -/

/-- The condition values and latches that a result is evaluated over. -/
def EventUnit.SameValues (u v : EventUnit) : Prop :=
  v.slotLive = u.slotLive ∧ v.slotLatch = u.slotLatch ∧ v.channelLive = u.channelLive ∧ v.channelLatch = u.channelLatch

theorem EventUnit.SameValues.evaluate {u v : EventUnit} (h : u.SameValues v) (d : Indicator) : d.evaluate v = d.evaluate u := by
  obtain ⟨hslot, hslotLatch, hchannel, hchannelLatch⟩ := h
  have hvalue : v.value = u.value := by
    unfold EventUnit.value
    simp only [hslot, hslotLatch, hchannel, hchannelLatch]
  have hoperand (o : Operand) : o.eval v = o.eval u := by
    unfold Operand.eval
    rw [hvalue]
  have hfields : d.fields.eval v = d.fields.eval u := by
    unfold IndFields.eval
    simp only [hoperand]
  unfold Indicator.evaluate
  rw [hfields]

theorem sameValues_of_keeps {fs : List Part} (h : Keeps fs s t) (hf : ∀ p ∈ [Part.liveValues, .latches], p ∉ fs := by decide +kernel) :
    s.events.SameValues t.events :=
  ⟨(h .liveValues (hf _ (by decide))).1, (h .latches (hf _ (by decide))).1, (h .liveValues (hf _ (by decide))).2,
    (h .latches (hf _ (by decide))).2⟩

/-- The condition values of a slot are those of its state, evidence and two flags. -/
theorem conds_congr {x y : Slot} (hstate : x.state = y.state) (hevidence : x.evidence = y.evidence) (hlow : x.low = y.low)
    (hfail : x.auditFail = y.auditFail) : x.conds = y.conds := by
  unfold Slot.conds
  rw [hstate, hevidence, hlow, hfail]

theorem conds_of_keeps {fs : List Part} (h : Keeps fs s t)
    (hf : ∀ p ∈ [Part.slotState, .evidence, .lowFlag, .auditFail], p ∉ fs := by decide +kernel) (j : SlotNo) :
    (t.slot j).conds = (s.slot j).conds :=
  conds_congr (h .slotState (hf _ (by decide)) j) (h .evidence (hf _ (by decide)) j) (h .lowFlag (hf _ (by decide)) j)
    (h .auditFail (hf _ (by decide)) j)

/-- The live values of `s` with those of slot `i` as its record in `u` gives them; and so the latches. -/
structure Reported (s u t : State) (i : SlotNo) : Prop where
  slotLive : t.events.slotLive = upd s.events.slotLive i (u.slot i).conds
  slotLatch : t.events.slotLatch = upd s.events.slotLatch i ((nth s.events.slotLatch i).latch (u.slot i).conds)
  channelLive : t.events.channelLive = s.events.channelLive
  channelLatch : t.events.channelLatch = s.events.channelLatch
  indicators : ∀ n, nth t.indicators n = (nth s.indicators n).evaluate t.events

/-- R174: a slot whose condition values have changed reports them, and every indicator is evaluated over them. -/
theorem reportSlot_reported (hvalues : s.events.SameValues u.events) (hind : u.indicators = s.indicators)
    (hnew : (u.slot i).conds ≠ nth s.events.slotLive i) : Reported s u (reportSlot u i) i := by
  obtain ⟨hslot, hslotLatch, hchannel, hchannelLatch⟩ := hvalues
  have hreport : ¬(u.slot i).conds = nth u.events.slotLive i := by rwa [hslot]
  unfold reportSlot
  rw [if_neg hreport]
  refine ⟨congrArg (upd · i _) hslot, ?_, hchannel, hchannelLatch, fun n => ?_⟩
  · dsimp only [evaluateAll]
    rw [hslotLatch]
  · rw [← hind]
    exact nth_tab _ n

theorem Reported.of_keeps {fs : List Part} {r : State} (h : Reported s u r i) (k : Keeps fs r t)
    (hf : ∀ p ∈ [Part.liveValues, .latches, .indicators], p ∉ fs := by decide +kernel) : Reported s u t i := by
  have hlive := k .liveValues (hf _ (by decide))
  have hlatch := k .latches (hf _ (by decide))
  have hind : t.indicators = r.indicators := k .indicators (hf _ (by decide))
  refine ⟨hlive.1.trans h.slotLive, hlatch.1.trans h.slotLatch, hlive.2.trans h.channelLive, hlatch.2.trans h.channelLatch, fun n => ?_⟩
  rw [hind, EventUnit.SameValues.evaluate ⟨hlive.1, hlatch.1, hlive.2, hlatch.2⟩]
  exact h.indicators n

/-- R175, R178: a report out of a state with true live values and lawful latches reaches latches and indicators. -/
theorem Reported.reaches (h : Reported s u t i) (hlatches : LatchesLawful s) : ReportReaches s t := by
  obtain ⟨hslots, hchannels⟩ := latchesLawful_iff.1 hlatches
  refine ⟨fun j => ?_, fun c => ?_, fun n => ?_⟩
  · have hlatch : nth t.events.slotLatch j = (nth s.events.slotLatch j).latch (nth t.events.slotLive j) := by
      rw [h.slotLatch, h.slotLive, nth_upd, nth_upd]
      split
      · next e => rw [← e]
      · exact (hslots j).symm
    exact hlatch
  · have hlatch : nth t.events.channelLatch c = (nth s.events.channelLatch c).latch (nth t.events.channelLive c) := by
      rw [h.channelLatch, h.channelLive]
      exact (hchannels c).symm
    exact hlatch
  · rw [h.indicators n]
    exact Indicator.evaluate_evaluated ..

/-- What the audit and the retirement check make of a slot touches no condition value. -/
theorem slotChecks_keeps_values (i : SlotNo) (s : State) :
    Keeps (.audit :: .handover :: Foot.owed ++ Foot.raise) s (slotChecks i s) :=
  (auditCheck_keeps i s).mono.trans (retireCheck_keeps i _).mono

/-- R174: where the slot stands in no feed list, the report of its change is the only one of the step. -/
theorem settle_slotChanged_reported (hlive : LiveAgree s) (hfeed : channelOf u i = none) (hvalues : s.events.SameValues u.events)
    (hind : u.indicators = s.indicators) (hothers : OtherSlotsSame i s u) (hchan : ∀ c, u.chan c = s.chan c)
    (hcounter : ∀ c, u.counter c = s.counter c) (hnew : (u.slot i).conds ≠ (s.slot i).conds) :
    Reported s u (settle (slotChanged i u)) i := by
  obtain ⟨hslots, hchannels⟩ := liveAgree_iff.1 hlive
  have hreported := reportSlot_reported hvalues hind (hslots i ▸ hnew)
  have hchecks := slotChecks_keeps_values i (reportSlot u i)
  have hafter : Reported s u (slotChanged i u) i := by
    rw [slotChanged_unfed hfeed]
    exact hreported.of_keeps hchecks
  have hall : Keeps (.audit :: .handover :: Foot.report ++ Foot.owed ++ Foot.raise) u (slotChanged i u) := by
    rw [slotChanged_unfed hfeed]
    exact (reportSlot_keeps u i).mono.trans hchecks.mono
  have hagree : LiveAgree (slotChanged i u) := by
    refine liveAgree_iff.2 ⟨fun j => ?_, fun c => ?_⟩
    · rw [hafter.slotLive, nth_upd, conds_of_keeps hall (by decide +kernel) j]
      split
      · next e => rw [← e]
      · next e => rw [hslots j, hothers j (Ne.symm e)]
    · have hcount : (slotChanged i u).counter c = s.counter c := (congrArg (nth · c) (hall.get .counters)).trans (hcounter c)
      rw [hafter.channelLive, hchannels c, chan_of_keeps hall, hchan, hcount]
  unfold settle
  rw [reportConditions_of_liveAgree hagree]
  exact hafter.of_keeps ((kickHistory_keeps _).mono.trans (kickLane_keeps _).mono : Keeps (.historyWrites :: Foot.lane) _ _)

end Sys2Proof.Machine
end

section
/-!
Requests placed on a line (R85), and what places one at once: a re-challenge (R104, R115) and the start of an audit (R141, R142).
-/

namespace Sys2Proof.Machine

variable {s : State} {i : SlotNo}

/-! ## Placing (R85) -/

/-- The entry of a request for slot `i`. -/
def placedEntry (i : SlotNo) (k : TxKind) (o : Origin) (rec : Option RecNo) : TxEntry :=
  { slot := i, kind := k, requester := k.requester, origin := o, record := rec }

/-- The line with an entry at the tail of its queue. -/
def Line.joined (ln : Line) (e : TxEntry) : Line := { ln with queue := ln.queue ++ [e] }

/-- The line with an owed mark for the entry. -/
def Line.marked (ln : Line) (e : TxEntry) : Line := { ln with owed := upd ln.owed (posOf e.slot) ((nth ln.owed (posOf e.slot)).set e) }

theorem place_eq (i : SlotNo) (k : TxKind) (o : Origin) (rec : Option RecNo) (s : State) :
    place i k o rec s =
      (s.setLine (lineOf i) ((s.line (lineOf i)).place (placedEntry i k o rec)).1,
        ((s.line (lineOf i)).place (placedEntry i k o rec)).2) := rfl

theorem place_other_joins (k : TxKind) (rec : Option RecNo) (h : (s.line (lineOf i)).queue.length < 8) :
    place i k .other rec s = (s.setLine (lineOf i) ((s.line (lineOf i)).joined (placedEntry i k .other rec)), true) := by
  have hline : (s.line (lineOf i)).place (placedEntry i k .other rec) = ((s.line (lineOf i)).joined (placedEntry i k .other rec), true) :=
    if_pos (show 1 ≤ (s.line (lineOf i)).free by unfold Line.free; omega)
  rw [place_eq, hline]

theorem place_other_marks (k : TxKind) (rec : Option RecNo) (h : 8 ≤ (s.line (lineOf i)).queue.length) :
    place i k .other rec s = (s.setLine (lineOf i) ((s.line (lineOf i)).marked (placedEntry i k .other rec)), true) := by
  have hline : (s.line (lineOf i)).place (placedEntry i k .other rec) = ((s.line (lineOf i)).marked (placedEntry i k .other rec), true) :=
    if_neg (show ¬1 ≤ (s.line (lineOf i)).free by unfold Line.free; omega)
  rw [place_eq, hline]

/-- R85: a request of origin OTHER is always taken. -/
theorem place_other_taken (k : TxKind) (rec : Option RecNo) : (place i k .other rec s).2 = true := by
  by_cases h : (s.line (lineOf i)).queue.length < 8
  · rw [place_other_joins k rec h]
  · rw [place_other_marks k rec (Nat.not_lt.1 h)]

theorem place_schedule_joins (k : TxKind) (rec : Option RecNo) (h : (s.line (lineOf i)).queue.length ≤ 4) :
    place i k .schedule rec s = (s.setLine (lineOf i) ((s.line (lineOf i)).joined (placedEntry i k .schedule rec)), true) := by
  have hline : (s.line (lineOf i)).place (placedEntry i k .schedule rec) =
      ((s.line (lineOf i)).joined (placedEntry i k .schedule rec), true) :=
    if_pos (show 4 ≤ (s.line (lineOf i)).free by unfold Line.free; omega)
  rw [place_eq, hline]

/-- R85, R163: the schedule leaves 4 places free, and sets no mark. -/
theorem place_schedule_refused (k : TxKind) (rec : Option RecNo) (h : 4 < (s.line (lineOf i)).queue.length) :
    place i k .schedule rec s = (s, false) := by
  have hline : (s.line (lineOf i)).place (placedEntry i k .schedule rec) = (s.line (lineOf i), false) :=
    if_neg (show ¬4 ≤ (s.line (lineOf i)).free by unfold Line.free; omega)
  rw [place_eq, hline, setLine_self]

/-! ## Re-challenges (R104) -/

theorem asReturn_state (r : ReturnState) : r.state.asReturn = some r := by cases r <;> rfl

theorem inService_state (r : ReturnState) : r.state.inService = true := by cases r <;> rfl

theorem startRechallenge_taken {o : Origin} {r : ReturnState} (hstate : (s.slot i).state = r.state)
    (h : (place i .challenge o none s).2 = true) :
    startRechallenge i o s =
      (slotChanged i ((place i .challenge o none s).1.setSlotState i (.challenging (.rechallenge r))), true) := by
  unfold startRechallenge
  rw [hstate, asReturn_state]
  exact if_pos h

theorem startRechallenge_refused {o : Origin} (h : (place i .challenge o none s).2 = false) : startRechallenge i o s = (s, false) := by
  unfold startRechallenge
  split
  · rfl
  · dsimp only
    rw [h]
    rfl

/-- R140, R151: an audit does not end with a re-challenge, so that the lines stand as the request left them. -/
theorem rechallenged_keeps {r : ReturnState} (u : State) :
    Keeps (.slotState :: Foot.run) u (slotChanged i (u.setSlotState i (.challenging (.rechallenge r)))) := by
  refine (setSlotState_keeps u i _).mono.trans (Keeps.mono (slotChanged_spared_keeps (.inr ?_)))
  rw [slotState_setSlotState]
  rfl

theorem rechallenged_state {r : ReturnState} (u : State) :
    ((slotChanged i (u.setSlotState i (.challenging (.rechallenge r)))).slot i).state = .challenging (.rechallenge r) := by
  rw [slotChanged_slotState, slotState_setSlotState]

/-! ## The start of an audit (R141, R142) -/

/-- R141, R142: the record of an audit that has placed its first read. -/
def startedAudit (i : SlotNo) (m : AuditMode) (acc : Bool) : Audit :=
  { slot := some i, mode := m, accumulate := acc, state := .running, passes := 0, failing := [], firstFailure := none,
    pass := some { position := .index 0, awaited := some 0, view := [], writeEnded := false } }

theorem startAudit_eq (i : SlotNo) (m : AuditMode) (acc : Bool) (s : State) :
    startAudit i m acc s = (place i .recordRead .other (some 0) (s.setAudit (startedAudit i m acc))).1 := rfl

end Sys2Proof.Machine
end

section
/-!
SLOT RECHALLENGE and AUDIT START on a line with and without a free place (R85, R115, R141).
-/

namespace Sys2Proof.Machine

variable {s : State} {i : SlotNo} {tag b x y : Byte} {rest : List Request}

/-- R115: the request is accepted, and the re-challenge starts in the state that took it. -/
theorem slotRechallenge_request {r : ReturnState} (hs : Serves s { tag, kind := 21#16, args := [b] } rest) (hi : b.toNat = i.val)
    (hm : s.mgmt.mode ≠ .standby) (hstate : (s.slot i).state = r.state) :
    exec .slotRechallenge s = .next (settle (({ tag, kind := 21#16, args := [b] } : Request).reply .accepted []
      (slotChanged i ((place i .challenge .other none (takeRequest rest s)).1.setSlotState i (.challenging (.rechallenge r)))))) := by
  have hx : exec .slotRechallenge s = .next (settle (withArgs [1] slotRechallenge { tag, kind := 21#16, args := [b] } (takeRequest rest s))) :=
    live_served _ hs rfl
  have hcarried : slotRechallenge [b.toNat] { tag, kind := 21#16, args := [b] } (takeRequest rest s) =
      ({ tag, kind := 21#16, args := [b] } : Request).reply .accepted [] (startRechallenge i .other (takeRequest rest s)).1 := by
    have hservice : ((takeRequest rest s).slot i).state.inService = true := (congrArg SlotState.inService hstate).trans (inService_state r)
    unfold slotRechallenge
    dsimp only
    rw [if_neg (show (takeRequest rest s).mgmt.mode ≠ .standby from hm), asFin_of_val hi]
    exact if_pos hservice
  rw [hx, withArgs_fit _ _ (fields_byte b), hcarried, startRechallenge_taken (s := takeRequest rest s) hstate (place_other_taken _ _)]

theorem asAuditMode_no (m : AuditMode) : asAuditMode m.no = some m := by cases m <;> rfl

/-- R141: the request is accepted, and the audit starts in the state that took it. -/
theorem auditStart_request {m : AuditMode} {acc : Bool} (hs : Serves s { tag, kind := 25#16, args := [b, x, y] } rest)
    (hi : b.toNat = i.val) (hx : x.toNat = m.no) (hy : y.toNat = flagNo acc) (hm : s.mgmt.mode ≠ .standby)
    (hidle : s.audit.state.active = false) (hstate : (s.slot i).state.auditEligible = true) :
    exec .auditStart s = .next (settle (({ tag, kind := 25#16, args := [b, x, y] } : Request).reply .accepted []
      (place i .recordRead .other (some 0) ((takeRequest rest s).setAudit (startedAudit i m acc))).1)) := by
  have hserved : exec .auditStart s =
      .next (settle (withArgs [1, 1, 1] auditStart { tag, kind := 25#16, args := [b, x, y] } (takeRequest rest s))) :=
    live_served _ hs rfl
  have hfields : fields [1, 1, 1] [b, x, y] = some [b.toNat, x.toNat, y.toNat] := by simp [fields, ofBe]
  have hcarried : auditStart [b.toNat, x.toNat, y.toNat] { tag, kind := 25#16, args := [b, x, y] } (takeRequest rest s) =
      ({ tag, kind := 25#16, args := [b, x, y] } : Request).reply .accepted [] (startAudit i m acc (takeRequest rest s)) := by
    unfold auditStart
    dsimp only
    rw [if_neg (show (takeRequest rest s).mgmt.mode ≠ .standby from hm), asFin_of_val hi, hx, asAuditMode_no, hy, asFlag_flagNo]
    dsimp only
    rw [if_neg (show ¬(takeRequest rest s).audit.state.active = true by simpa [takeRequest] using hidle)]
    exact if_pos hstate
  rw [hserved, withArgs_fit _ _ hfields, hcarried, startAudit_eq]

/-- The lines of a request's step are those that its reply found. -/
theorem settle_reply_line (r : Request) (st : Status) (res : List Byte) (u : State) (m : LineNo) :
    (settle (r.reply st res u)).line m = u.line m :=
  congrArg (nth · m) (((settle_keeps _).get .lines).trans ((reply_keeps r st res u).get .lines))

end Sys2Proof.Machine
end

section
/-!
Presence (R75-R77, R87, R95, R96, R130), and the places that a removal frees (R86, R87).
-/

namespace Sys2Proof.Machine

variable {s : State} {i : SlotNo}

theorem settle_presence (s : State) : (settle s).presence = s.presence := (settle_keeps s).get .presence

theorem settle_line (s : State) (l : LineNo) : (settle s).line l = s.line l := congrArg (nth · l) ((settle_keeps s).get .lines)

theorem slotChanged_presence (i : SlotNo) (s : State) : (slotChanged i s).presence = s.presence := (slotChanged_keeps i s).get .presence

theorem settle_others {u : State} (h : OtherSlotsSame i s u) : OtherSlotsSame i s (settle u) := fun j hj => (settle_slot u j).trans (h j hj)

/-! ## A contact closes (R75) -/

theorem contactClose_empty (hopen : (nth s.presence i).closed = false) (hstate : (s.slot i).state = .empty) :
    contactClose i s =
      slotChanged i ((s.setPresence i { closed := true, timer := some 200, wakeMark := false }).setSlotState i .settling) := by
  unfold contactClose
  rw [if_neg (by simp [hopen]), if_pos hstate]

/-- R75: a contact that is closed already, or that closes at an occupied slot, is only noted. -/
theorem contactClose_noted (h : (nth s.presence i).closed = true ∨ (s.slot i).state ≠ .empty) :
    contactClose i s = s.setPresence i { nth s.presence i with closed := true } := by
  unfold contactClose
  split
  · next hclosed =>
    have hsame : upd s.presence i { nth s.presence i with closed := true } = s.presence := tbl_ext fun j => by
      rw [nth_upd]
      split
      · next e => rw [← e, ← hclosed]
      · rfl
    unfold State.setPresence
    rw [hsame]
  · next hopen => rw [if_neg (h.resolve_left hopen)]

/-! ## Settling ends (R76, R96) -/

theorem settled_iff : settled s i = true ↔
    (nth s.presence i).closed = true ∧ (s.slot i).state = .settling ∧ (nth s.presence i).timer = some 0 := by
  simp [settled, and_assoc]

/-- R76, R96: the slot is IDENTIFYING, SLOT_INSERTED is raised and the IDENTIFY is placed, before the change is reported. -/
def inserted (i : SlotNo) (s : State) : State :=
  request i .identify (raise .slotInserted (.slot i) 0
    ((s.setPresence i { nth s.presence i with timer := none, wakeMark := false }).setSlotState i .identifying))

theorem settlingEnd_inserts (h : settled s i = true) (hm : s.mgmt.mode ≠ .standby) : settlingEnd i s = slotChanged i (inserted i s) := by
  unfold settlingEnd
  rw [if_pos h, if_neg hm]
  rfl

theorem settlingEnd_standby (h : settled s i = true) (hm : s.mgmt.mode = .standby) :
    settlingEnd i s = s.setPresence i { nth s.presence i with timer := none, wakeMark := true } := by
  unfold settlingEnd
  rw [if_pos h, if_pos hm]

theorem settlingEnd_early (h : ¬settled s i = true) : settlingEnd i s = s := if_neg h

theorem inserted_keeps (i : SlotNo) (s : State) : Keeps ([.presence, .slotState, .lines] ++ Foot.raise) s (inserted i s) :=
  (((setPresence_keeps s i _).mono.trans (setSlotState_keeps _ i _).mono).trans (raise_keeps _ _ _ _).mono).trans
    (request_keeps i _ _).mono

theorem inserted_state (i : SlotNo) (s : State) : ((inserted i s).slot i).state = .identifying := by
  have hafter : Keeps (.lines :: Foot.raise)
      ((s.setPresence i { nth s.presence i with timer := none, wakeMark := false }).setSlotState i .identifying) (inserted i s) :=
    (raise_keeps _ _ _ _).mono.trans (request_keeps i _ _).mono
  exact (hafter .slotState (by decide +kernel) i).trans (slotState_setSlotState i _ _)

theorem inserted_emits (i : SlotNo) (s : State) : Emits s (inserted i s) [(.slotInserted, .slot i, 0)] := by
  have hbefore : Keeps [.presence, .slotState] s
      ((s.setPresence i { nth s.presence i with timer := none, wakeMark := false }).setSlotState i .identifying) :=
    (setPresence_keeps s i _).mono.trans (setSlotState_keeps _ i _).mono
  exact ((Emits.of_keeps hbefore).after_silent (raise_emits _ _ _ _)).then_silent (.of_keeps (request_keeps i _ _))

theorem inserted_others (i : SlotNo) (s : State) : OtherSlotsSame i s (inserted i s) :=
  ((setSlotState_others (s.setPresence i { nth s.presence i with timer := none, wakeMark := false }) i .identifying).trans
    (raise_others i _ _ _ _)).trans (.of_keeps (request_keeps i _ _))

theorem inserted_presence (i : SlotNo) (s : State) :
    nth (inserted i s).presence i = { nth s.presence i with timer := none, wakeMark := false } := by
  have hafter : Keeps (.slotState :: .lines :: Foot.raise) (s.setPresence i { nth s.presence i with timer := none, wakeMark := false })
      (inserted i s) :=
    ((setSlotState_keeps _ i _).mono.trans (raise_keeps _ _ _ _).mono).trans (request_keeps i _ _).mono
  exact (congrArg (nth · i) (hafter.get .presence)).trans (nth_upd_same ..)

/-! ## A contact opens (R75, R77, R95) -/

/-- The contact is sensed OPEN, and nothing settles. -/
def opened (i : SlotNo) (s : State) : State := s.setPresence i { closed := false, timer := none, wakeMark := false }

/-- R95, R130: the entry held is updated, and the record is cleared. -/
def vacated (i : SlotNo) (s : State) : State := (historyRemoval i (opened i s)).setSlot i {}

/-- R77, R87: the transactions are withdrawn and SLOT_REMOVED is raised, before the change is reported. -/
def removed (i : SlotNo) (s : State) : State :=
  raise .slotRemoved (.slot i) (s.slot i).state.no (withdrawSlot i (vacated i s))

theorem contactOpen_empty (hclosed : (nth s.presence i).closed = true) (hstate : (s.slot i).state = .empty) :
    contactOpen i s = opened i s := by
  unfold contactOpen
  rw [if_pos hclosed, hstate]
  rfl

theorem contactOpen_settling (hclosed : (nth s.presence i).closed = true) (hstate : (s.slot i).state = .settling) :
    contactOpen i s = slotChanged i ((opened i s).setSlotState i .empty) := by
  unfold contactOpen
  rw [if_pos hclosed, hstate]
  rfl

theorem contactOpen_removes (hclosed : (nth s.presence i).closed = true) (hsettling : (s.slot i).state ≠ .settling)
    (hempty : (s.slot i).state ≠ .empty) : contactOpen i s = slotChanged i (removed i s) := by
  unfold contactOpen
  rw [if_pos hclosed]
  dsimp only
  split
  · next h => exact absurd h hempty
  · next h => exact absurd h hsettling
  · rfl

theorem opened_keeps (i : SlotNo) (s : State) : Keeps [.presence] s (opened i s) := setPresence_keeps s i _

theorem vacated_keeps (i : SlotNo) (s : State) : Keeps (.presence :: Foot.slot ++ Foot.history) s (vacated i s) :=
  ((opened_keeps i s).mono.trans (historyRemoval_keeps i _).mono).trans (setSlot_keeps _ i _).mono

theorem vacated_slot (i : SlotNo) (s : State) : (vacated i s).slot i = {} := slot_setSlot_same _ _ _

theorem vacated_line (i : SlotNo) (s : State) (l : LineNo) : (vacated i s).line l = s.line l :=
  congrArg (nth · l) ((vacated_keeps i s).get .lines)

/-- R87: what leaves the line, and which marks are given the places. -/
theorem removed_line_same (i : SlotNo) (s : State) :
    (removed i s).line (lineOf i) = ((s.line (lineOf i)).without i).serveMarks (lineOf i) := by
  have hraise : (removed i s).line (lineOf i) = (withdrawSlot i (vacated i s)).line (lineOf i) :=
    congrArg (nth · (lineOf i)) ((raise_keeps _ _ _ _).get .lines)
  rw [hraise, withdrawSlot_unowed (by rw [vacated_slot]), line_setLine_same, vacated_line]

theorem removed_line_other (s : State) {l : LineNo} (h : l ≠ lineOf i) : (removed i s).line l = s.line l := by
  have hraise : (removed i s).line l = (withdrawSlot i (vacated i s)).line l := congrArg (nth · l) ((raise_keeps _ _ _ _).get .lines)
  rw [hraise, withdrawSlot_unowed (by rw [vacated_slot]), line_setLine_other _ _ h, vacated_line]

/-- The withdrawal and the event change no slot record and no history place. -/
theorem vacated_removed_keeps (i : SlotNo) (s : State) : Keeps (.lines :: Foot.raise) (vacated i s) (removed i s) := by
  have hwithdrawn : Keeps [.lines] (vacated i s) (withdrawSlot i (vacated i s)) := by
    rw [withdrawSlot_unowed (by rw [vacated_slot])]
    exact setLine_keeps _ _ _
  exact hwithdrawn.mono.trans (raise_keeps _ _ _ _).mono

theorem removed_slot (i : SlotNo) (s : State) : (removed i s).slot i = {} :=
  (slot_of_keeps (vacated_removed_keeps i s) (by decide +kernel) i).trans (vacated_slot i s)

theorem removed_lacks (i : SlotNo) (s : State) : ((removed i s).line (lineOf i)).Lacks i := by
  rw [removed_line_same]
  exact (Line.without_lacks _ i).serveMarks

/-- R77, R151: the report of a removal leaves the cleared record and the lines as they are, also where it ends an audit. -/
theorem slotChanged_removed_keeps (i : SlotNo) (s : State) : Keeps (.audit :: Foot.run) (removed i s) (slotChanged i (removed i s)) := by
  have howed : ((removed i s).slot i).owedCommit = false := by rw [removed_slot]
  have hserved : ((removed i s).line (lineOf i)).Served := by
    rw [removed_line_same]
    exact Line.serveMarks_served _ _
  intro p hp
  by_cases hlines : p = .lines
  · subst hlines
    exact slotChanged_lines_of_lacks howed (removed_lacks i s) hserved
  · refine slotChanged_unowed_keeps howed p fun hmem => ?_
    rcases List.mem_cons.1 hmem with h | h
    · exact hp (h ▸ List.mem_cons_self)
    · exact hp (List.mem_cons_of_mem _ ((List.mem_cons.1 h).resolve_left hlines))

theorem removed_emits (i : SlotNo) (s : State) : Emits s (removed i s) [(.slotRemoved, .slot i, (s.slot i).state.no)] :=
  ((Emits.of_keeps (vacated_keeps i s)).then_silent (.of_keeps (withdrawSlot_keeps i _))).after_silent (raise_emits _ _ _ _)

theorem removed_others (i : SlotNo) (s : State) : OtherSlotsSame i s (removed i s) := by
  have hopened : OtherSlotsSame i s (historyRemoval i (opened i s)) :=
    (OtherSlotsSame.of_keeps (opened_keeps i s)).trans (.of_keeps (historyRemoval_keeps i _))
  exact (hopened.trans (setSlot_others _ i _)).trans (.of_keeps (vacated_removed_keeps i s))

theorem removed_presence (i : SlotNo) (s : State) :
    nth (removed i s).presence i = { closed := false, timer := none, wakeMark := false } := by
  have hafter : Keeps (.lines :: Foot.slot ++ Foot.history ++ Foot.raise) (opened i s) (removed i s) :=
    ((historyRemoval_keeps i _).mono.trans (setSlot_keeps _ i _).mono).trans (vacated_removed_keeps i s).mono
  exact (congrArg (nth · i) (hafter.get .presence)).trans (nth_upd_same ..)

/-- R130: the removal row, as `historyRemoval` writes it for slot `i` in `s`. -/
def removalRow (i : SlotNo) (s : State) (sl : Slot) (e : HistoryEntry) : HistoryEntry :=
  if e.state = .exhausted ∨ heldBeside s e.serial (some i) then e.learn sl.consumed
  else { e.learn sl.consumed with state := .removed }

theorem historyRemoval_eq (i : SlotNo) (s : State) : historyRemoval i s = updateHeld i (removalRow i s) s := rfl

theorem removalRow_eq (i : SlotNo) (s : State) (e : HistoryEntry) : removalRow i s (s.slot i) e = removalUpdate s i e := by
  unfold removalRow removalUpdate
  by_cases h : e.state = .exhausted ∨ heldBeside s e.serial (some i) = true
  · rw [if_pos h, if_pos (h.imp_right heldBeside_iff.1)]
    rfl
  · rw [if_neg h, if_neg (fun h' => h (h'.imp_right heldBeside_iff.2))]
    rfl

theorem removed_heldEntryTakes (i : SlotNo) (s : State) :
    HeldEntryTakes s (settle (slotChanged i (removed i s))) i (removalUpdate s i) := by
  have hafter : Keeps (.audit :: .lines :: Foot.slot ++ Foot.run) (historyRemoval i (opened i s)) (slotChanged i (removed i s)) :=
    ((setSlot_keeps _ i _).mono.trans (vacated_removed_keeps i s).mono).trans (slotChanged_removed_keeps i s).mono
  refine heldEntryTakes_of_updateHeld (u := opened i s) (f := removalRow i (opened i s)) rfl rfl rfl rfl ?_ fun e => ?_
  · rw [settle_history, history_of_keeps hafter, historyRemoval_eq]
  · rw [removalRow_eq]
    rfl

end Sys2Proof.Machine
end

section
/-!
Statements on presence and owed marks (R75-R77, R84-R87, R95, R96, R130).
-/

namespace Sys2Proof.Machine

/-- The report of a slot's new state leaves the contact as the change set it. -/
theorem settle_slotChanged_presence (i : SlotNo) (p : Presence) (st : SlotState) (s : State) :
    (settle (slotChanged i ((s.setPresence i p).setSlotState i st))).presence = upd s.presence i p :=
  (settle_presence _).trans ((slotChanged_presence i _).trans ((setSlotState_keeps _ i st).get .presence))

/-- Settles O18: `place` on a line with and without a place, and the removal's line, whose free places `serveMarks` gives away. -/
theorem owedMarks : Obligations.OwedMarks := by
  unfold Obligations.OwedMarks
  refine ⟨fun s tag b rest i r hs hi hm hstate => ?_, fun s tag b x y rest i m acc hs hi hx hy hm hidle hstate => ?_,
    fun s i hp hclosed hsettling hempty => ?_⟩
  · refine ⟨_, slotRechallenge_request hs hi hm hstate, ?_⟩
    have hline (m : LineNo) := (settle_reply_line { tag, kind := 21#16, args := [b] } .accepted [] _ m).trans
      (congrArg (nth · m) ((rechallenged_keeps (i := i) (r := r) (place i .challenge .other none (takeRequest rest s)).1).get .lines))
    refine ⟨fun m hml => (hline m).trans (line_setLine_other _ _ hml), fun hfree => (hline _).trans ?_, fun hfull => (hline _).trans ?_⟩
    · rw [place_other_joins (s := takeRequest rest s) _ _ hfree]
      exact line_setLine_same _ _ _
    · rw [place_other_marks (s := takeRequest rest s) _ _ hfull]
      exact line_setLine_same _ _ _
  · refine ⟨_, auditStart_request hs hi hx hy hm hidle hstate, ?_⟩
    have hline := settle_reply_line { tag, kind := 25#16, args := [b, x, y] } .accepted []
      (place i .recordRead .other (some 0) ((takeRequest rest s).setAudit (startedAudit i m acc))).1
    refine ⟨fun m hml => (hline m).trans (line_setLine_other _ _ hml), fun hfree => (hline _).trans ?_, fun hfull => (hline _).trans ?_⟩
    · rw [place_other_joins (s := (takeRequest rest s).setAudit (startedAudit i m acc)) _ _ hfree]
      exact line_setLine_same _ _ _
    · rw [place_other_marks (s := (takeRequest rest s).setAudit (startedAudit i m acc)) _ _ hfull]
      refine (line_setLine_same _ _ _).trans ?_
      have hset (o : Owed) : o.set (placedEntry i .recordRead .other (some 0)) = { o with recordRead := some (o.recordRead.getD 0) } := by
        obtain ⟨_, _, _, _, record⟩ := o
        cases record <;> rfl
      exact congrArg (fun o => { s.line (lineOf i) with owed := upd (s.line (lineOf i)).owed (posOf i) o }) (hset _)
  · have hx : exec (.contactOpen i) s = .next (settle (contactOpen i s)) := live_powered hp
    refine ⟨_, hx, ?_⟩
    rw [contactOpen_removes hclosed hsettling hempty]
    have hline (l : LineNo) : (settle (slotChanged i (removed i s))).line l = (removed i s).line l :=
      (settle_line _ l).trans (congrArg (nth · l) ((slotChanged_removed_keeps i s).get .lines))
    refine ⟨?_, fun m hm => (hline m).trans (removed_line_other s hm)⟩
    rw [hline, removed_line_same, ← Line.without_queue, ← Line.owedEntries_without]
    exact Line.serveMarks_placesGiven _ _

/-! ## A contact closes, settling ends -/

section

variable {s : State} {i : SlotNo}

theorem exec_contactClose_empty (hp : s.powered = true) (hopen : (nth s.presence i).closed = false) (hstate : (s.slot i).state = .empty) :
    exec (.contactClose i) s = .next (settle (slotChanged i
      ((s.setPresence i { closed := true, timer := some 200, wakeMark := false }).setSlotState i .settling))) :=
  (live_powered hp).trans (by rw [contactClose_empty hopen hstate])

theorem exec_contactClose_noted (hp : s.powered = true) (h : (nth s.presence i).closed = true ∨ (s.slot i).state ≠ .empty) :
    exec (.contactClose i) s = .next (settle (s.setPresence i { nth s.presence i with closed := true })) :=
  (live_powered hp).trans (by rw [contactClose_noted h])

theorem exec_settlingEnd_inserts (hp : s.powered = true) (h : settled s i = true) (hm : s.mgmt.mode ≠ .standby) :
    exec (.settlingEnd i) s = .next (settle (slotChanged i (inserted i s))) :=
  (live_powered hp).trans (by rw [settlingEnd_inserts h hm])

theorem exec_settlingEnd_standby (hp : s.powered = true) (h : settled s i = true) (hm : s.mgmt.mode = .standby) :
    exec (.settlingEnd i) s = .next (settle (s.setPresence i { nth s.presence i with timer := none, wakeMark := true })) :=
  (live_powered hp).trans (by rw [settlingEnd_standby h hm])

theorem exec_settlingEnd_early (hp : s.powered = true) (h : ¬settled s i = true) : exec (.settlingEnd i) s = .next (settle s) :=
  (live_powered hp).trans (by rw [settlingEnd_early h])

theorem settle_setPresence_presence (i : SlotNo) (p : Presence) (s : State) : (settle (s.setPresence i p)).presence = upd s.presence i p :=
  settle_presence _

theorem settle_setPresence_keeps (i : SlotNo) (p : Presence) (s : State) : Keeps (.presence :: Foot.settle) s (settle (s.setPresence i p)) :=
  (setPresence_keeps s i p).mono.trans (settle_keeps _).mono

theorem inserted_channelOf (h : channelOf s i = none) : channelOf (inserted i s) i = none :=
  (channelOf_congr (chan_of_keeps (inserted_keeps i s)) i).trans h

theorem inserted_heldSlot (h : heldSlot s ≠ some i) : heldSlot (inserted i s) ≠ some i := by
  rwa [heldSlot_congr ((inserted_keeps i s).get .audit)]

/-- R76: the IDENTIFY of the insertion is still pending when the change has been reported. -/
theorem settle_inserted_pending (i : SlotNo) (s : State) : isPending (settle (slotChanged i (inserted i s))) i .identify = true :=
  (isPending_settle _ _ _).trans (pendingKept_slotChanged i _ i .identify (by decide) (request_pending i .identify _ (by decide)))

theorem settle_inserted_raisesThen (i : SlotNo) (s : State) :
    RaisesThen s (settle (slotChanged i (inserted i s))) [(.slotInserted, .slot i, 0)]
      [.supplySwitch, .channelStarved, .channelFed, .auditFinished] :=
  EmitsOnly.raisesThen (inserted_emits i s) ((slotChanged_only i _).trans (.silent (settle_emits _)))

theorem settle_inserted_raises (hunfed : channelOf s i = none) (hunheld : heldSlot s ≠ some i) :
    Raises s (settle (slotChanged i (inserted i s))) [(.slotInserted, .slot i, 0)] :=
  (((inserted_emits i s).then_silent (slotChanged_silent (inserted_channelOf hunfed) (inserted_heldSlot hunheld))).then_silent
    (settle_emits _)).raises

/-- R175, R178-R180: the slot is present now, so that its report is of new values. -/
theorem settle_inserted_reaches (hstate : (s.slot i).state = .settling) (hunfed : channelOf s i = none) (hlive : LiveAgree s)
    (hlatches : LatchesLawful s) : ReportReaches s (settle (slotChanged i (inserted i s))) := by
  have hkeeps := inserted_keeps i s
  have hnew : ((inserted i s).slot i).conds ≠ (s.slot i).conds := fun e => by
    have hpresent := congrArg SlotConds.present e
    simp only [Slot.conds, inserted_state, hstate] at hpresent
    cases hpresent
  have hcounter (c : ChannelNo) : (inserted i s).counter c = s.counter c := congrArg (nth · c) (hkeeps.get .counters)
  exact (settle_slotChanged_reported hlive (inserted_channelOf hunfed) (sameValues_of_keeps hkeeps) (hkeeps.get .indicators)
    (inserted_others i s) (chan_of_keeps hkeeps) hcounter hnew).reaches hlatches

end

/-- Settles O21: the contact's own change, and for the end of settling the report of the slot that is now IDENTIFYING. -/
theorem contactClosingAndSettling : Obligations.ContactClosingAndSettling := by
  unfold Obligations.ContactClosingAndSettling
  refine ⟨fun s i hp hopen hstate => ?_, fun s i hp h => ?_, fun s i hp hclosed hstate htimer hm => ?_,
    fun s i hp hclosed hstate htimer hm => ?_, fun s i hp htimer => ?_⟩
  · have hx := exec_contactClose_empty hp hopen hstate
    refine ⟨_, hx, ?_, ?_, fun j hj => ?_, ?_, exec_keeps _ s _ rfl hx⟩
    · rw [settle_slot, slotChanged_slotState, slotState_setSlotState]
    · rw [settle_slotChanged_presence, nth_upd_same]
    · rw [settle_slotChanged_presence, nth_upd_ne _ _ (Ne.symm hj)]
    · exact settle_others (((OtherSlotsSame.of_keeps (setPresence_keeps s i _)).trans (setSlotState_others _ i _)).trans (slotChanged_others i _))
  · refine ⟨_, exec_contactClose_noted hp h, ?_, fun j hj => ?_, settle_setPresence_keeps i _ s⟩
    · rw [settle_setPresence_presence, nth_upd_same]
    · rw [settle_setPresence_presence, nth_upd_ne _ _ (Ne.symm hj)]
  · have hx := exec_settlingEnd_inserts hp (settled_iff.2 ⟨hclosed, hstate, htimer⟩) hm
    refine ⟨_, hx, ?_, ?_, settle_inserted_pending i s, settle_inserted_raisesThen i s, settle_inserted_raises,
      settle_inserted_reaches hstate, ?_, exec_keeps _ s _ rfl hx⟩
    · rw [settle_slot, slotChanged_slotState, inserted_state]
    · rw [settle_presence, slotChanged_presence, inserted_presence, ← hclosed]
    · exact settle_others ((inserted_others i s).trans (slotChanged_others i _))
  · refine ⟨_, exec_settlingEnd_standby hp (settled_iff.2 ⟨hclosed, hstate, htimer⟩) hm, ?_, settle_setPresence_keeps i _ s⟩
    rw [settle_setPresence_presence, nth_upd_same, ← hclosed]
  · exact ⟨_, exec_settlingEnd_early hp fun h => htimer (settled_iff.1 h).2.2, settle_keeps s⟩

/-! ## A contact opens -/

section

variable {s : State} {i : SlotNo}

theorem exec_contactOpen_empty (hp : s.powered = true) (hclosed : (nth s.presence i).closed = true) (hstate : (s.slot i).state = .empty) :
    exec (.contactOpen i) s = .next (settle (opened i s)) :=
  (live_powered hp).trans (by rw [contactOpen_empty hclosed hstate])

theorem exec_contactOpen_settling (hp : s.powered = true) (hclosed : (nth s.presence i).closed = true)
    (hstate : (s.slot i).state = .settling) :
    exec (.contactOpen i) s = .next (settle (slotChanged i ((opened i s).setSlotState i .empty))) :=
  (live_powered hp).trans (by rw [contactOpen_settling hclosed hstate])

theorem exec_contactOpen_removes (hp : s.powered = true) (hclosed : (nth s.presence i).closed = true)
    (hsettling : (s.slot i).state ≠ .settling) (hempty : (s.slot i).state ≠ .empty) :
    exec (.contactOpen i) s = .next (settle (slotChanged i (removed i s))) :=
  (live_powered hp).trans (by rw [contactOpen_removes hclosed hsettling hempty])

theorem settle_removed_line (i : SlotNo) (s : State) (l : LineNo) :
    (settle (slotChanged i (removed i s))).line l = (removed i s).line l :=
  (settle_line _ l).trans (congrArg (nth · l) ((slotChanged_removed_keeps i s).get .lines))

theorem removed_keeps (i : SlotNo) (s : State) : Keeps (.presence :: .lines :: Foot.slot ++ Foot.history ++ Foot.raise) s (removed i s) :=
  (vacated_keeps i s).mono.trans (vacated_removed_keeps i s).mono

theorem removed_channelOf (h : channelOf s i = none) : channelOf (removed i s) i = none :=
  (channelOf_congr (chan_of_keeps (removed_keeps i s)) i).trans h

theorem removed_heldSlot (h : heldSlot s ≠ some i) : heldSlot (removed i s) ≠ some i := by
  rwa [heldSlot_congr ((removed_keeps i s).get .audit)]

theorem settle_removed_raisesThen (i : SlotNo) (s : State) :
    RaisesThen s (settle (slotChanged i (removed i s))) [(.slotRemoved, .slot i, (s.slot i).state.no)]
      [.supplySwitch, .channelStarved, .channelFed, .auditFinished] :=
  EmitsOnly.raisesThen (removed_emits i s) ((slotChanged_only i _).trans (.silent (settle_emits _)))

theorem settle_removed_raises (hunfed : channelOf s i = none) (hunheld : heldSlot s ≠ some i) :
    Raises s (settle (slotChanged i (removed i s))) [(.slotRemoved, .slot i, (s.slot i).state.no)] :=
  (((removed_emits i s).then_silent (slotChanged_silent (removed_channelOf hunfed) (removed_heldSlot hunheld))).then_silent
    (settle_emits _)).raises

/-- R175, R178-R180: the slot was present and is not any more, so that its report is of new values. -/
theorem settle_removed_reaches (hsettling : (s.slot i).state ≠ .settling) (hempty : (s.slot i).state ≠ .empty)
    (hunfed : channelOf s i = none) (hlive : LiveAgree s) (hlatches : LatchesLawful s) :
    ReportReaches s (settle (slotChanged i (removed i s))) := by
  have hkeeps := removed_keeps i s
  have hpresent : (s.slot i).conds.present = true := ((s.slot i).conds_areOf.1).2 ⟨hempty, hsettling⟩
  have hnew : ((removed i s).slot i).conds ≠ (s.slot i).conds := fun e => by
    rw [removed_slot] at e
    rw [← e] at hpresent
    cases hpresent
  have hcounter (c : ChannelNo) : (removed i s).counter c = s.counter c := congrArg (nth · c) (hkeeps.get .counters)
  exact (settle_slotChanged_reported hlive (removed_channelOf hunfed) (sameValues_of_keeps hkeeps) (hkeeps.get .indicators)
    (removed_others i s) (chan_of_keeps hkeeps) hcounter hnew).reaches hlatches

end

/-- Settles O22: the removal leaves the record cleared and nothing of the slot on its line, and its report changes neither. -/
theorem contactOpeningRemoves : Obligations.ContactOpeningRemoves := by
  unfold Obligations.ContactOpeningRemoves
  refine ⟨fun s i hp hclosed hstate => ?_, fun s i hp hclosed hsettling hempty => ?_, fun s i hp hclosed hstate => ?_⟩
  · have hx := exec_contactOpen_settling hp hclosed hstate
    refine ⟨_, hx, ?_, ?_, ?_, ?_⟩
    · rw [settle_slot, slotChanged_slotState, slotState_setSlotState]
    · rw [opened, settle_slotChanged_presence, nth_upd_same]
    · exact settle_others (((OtherSlotsSame.of_keeps (opened_keeps i s)).trans (setSlotState_others _ i _)).trans (slotChanged_others i _))
    · exact (((opened_keeps i s).mono.trans (setSlotState_keeps _ i _).mono).trans (slotChanged_keeps i _).mono).trans (settle_keeps _).mono
  · have hx := exec_contactOpen_removes hp hclosed hsettling hempty
    have hlacks : ((settle (slotChanged i (removed i s))).line (lineOf i)).Lacks i := by
      rw [settle_removed_line]
      exact removed_lacks i s
    refine ⟨_, hx, ?_, ?_, ?_, hlacks.queue, hlacks.no_marks, fun fl hfl hslot => (hlacks.flight fl hfl hslot).1,
      settle_removed_raisesThen i s, settle_removed_raises, settle_removed_reaches hsettling hempty, removed_heldEntryTakes i s,
      exec_keeps _ s _ rfl hx⟩
    · rw [settle_slot, slot_of_keeps (slotChanged_removed_keeps i s) (by decide +kernel), removed_slot]
    · rw [settle_presence, slotChanged_presence, removed_presence]
    · exact settle_others ((removed_others i s).trans (slotChanged_others i _))
  · refine ⟨_, exec_contactOpen_empty hp hclosed hstate, ?_, (opened_keeps i s).mono.trans (settle_keeps _).mono⟩
    rw [opened, settle_setPresence_presence, nth_upd_same]

end Sys2Proof.Machine
end

section
/-!
Tries that fail (R82, R83, R87, R91, R103, R123, R130): the count, and the three ways a failed try ends.
-/

namespace Sys2Proof.Machine

variable {s t u : State} {i : SlotNo} {l : LineNo} {fl : Flight}

/-! ## The line's own record -/

theorem setFlight_line (l : LineNo) (f : Option Flight) (s : State) : (setFlight l f s).line l = { s.line l with flight := f } :=
  line_setLine_same _ _ _

theorem modCounters_line (l : LineNo) (f : LineCounters → LineCounters) (s : State) :
    (modCounters l f s).line l = { s.line l with counters := f (s.line l).counters } := line_setLine_same _ _ _

/-- R83, R91: the line has nothing in flight, and has counted the transaction failed. -/
def exhausted (l : LineNo) (s : State) : State :=
  setFlight l none (modCounters l (fun k => { k with failed := sat32 (k.failed + 1) }) s)

theorem exhausted_keeps (l : LineNo) (s : State) : Keeps [.lines] s (exhausted l s) :=
  (modCounters_keeps l _ s).trans (setFlight_keeps l _ _)

theorem exhausted_line (l : LineNo) (s : State) :
    (exhausted l s).line l =
      { s.line l with flight := none, counters := { (s.line l).counters with failed := sat32 ((s.line l).counters.failed + 1) } } := by
  unfold exhausted
  rw [setFlight_line, modCounters_line]

/-! ## How a failed try ends (R82, R83, R87) -/

theorem failTry_withdrawn (h : fl.withdrawn = true) (l : LineNo) (s : State) : failTry l fl s = endWithdrawn l fl s := if_pos h

theorem failTry_pauses (h : fl.withdrawn = false) (htry : fl.tryNo < 3) (l : LineNo) (s : State) :
    failTry l fl s = setFlight l (some { fl with phase := .pausing 10 }) s := by
  unfold failTry
  rw [if_neg (by simp [h]), if_pos htry]

theorem failTry_exhausts (h : fl.withdrawn = false) (htry : 3 ≤ fl.tryNo) (l : LineNo) (s : State) :
    failTry l fl s = exhaustTries l fl s := by
  unfold failTry
  rw [if_neg (by simp [h]), if_neg (Nat.not_lt.2 htry)]

theorem endWithdrawn_spares (l : LineNo) (fl : Flight) (s : State) : Spares (setFlight l none s) (endWithdrawn l fl s) :=
  .ite (fun _ => serveOwedCommit_spares _ _) fun _ => .refl _

theorem endWithdrawn_flight (l : LineNo) (fl : Flight) (s : State) : ((endWithdrawn l fl s).line l).flight = none :=
  (endWithdrawn_spares l fl s).idle l (by rw [setFlight_line])

theorem endWithdrawn_counters (l : LineNo) (fl : Flight) (s : State) : ((endWithdrawn l fl s).line l).counters = (s.line l).counters :=
  ((endWithdrawn_spares l fl s).counters l).trans (by rw [setFlight_line])

/-! ## The fault of a slot whose tries are exhausted (R83, R103, R123, R130) -/

theorem historyFault_spares (i : SlotNo) (s : State) : Spares s (historyFault i s) := .of_keeps (historyFault_keeps i s)

theorem faultCore_spares (i : SlotNo) (r : FaultReason) (k : TxKind) (s : State) : Spares s (faultCore i r k s) :=
  (((setSlot_spares i _ s).trans (withdrawSlot_spares i _)).trans (historyFault_spares i _)).trans (.raise _ _ _ _)

/-- From `s` to `t` slot `i` is faulted with no answer, and the entry it holds learns its consumed amount. -/
structure NoResponse (i : SlotNo) (s t : State) : Prop where
  spares : Spares s t
  others : OtherSlotsSame i s t
  state : (t.slot i).state = .faulted .noResponse
  consumed : (t.slot i).consumed = (s.slot i).consumed
  committed : (t.slot i).committed = (s.slot i).committed
  /-- The history was updated out of a state with the slot's record and the history of `s`. -/
  held : ∃ v, Keeps (.freeCount :: Foot.reject) s v ∧ t.history = (historyFault i v).history

theorem faultCore_noResponse (i : SlotNo) (k : TxKind) (s : State) : NoResponse i s (faultCore i .noResponse k s) := by
  have hkeeps := faultCore_keeps i .noResponse k s
  have hafter : Keeps (Foot.owed ++ Foot.history ++ Foot.raise) (s.setSlotState i (.faulted .noResponse)) (faultCore i .noResponse k s) :=
    ((withdrawSlot_keeps i _).mono.trans (historyFault_keeps i _).mono).trans (raise_keeps _ _ _ _).mono
  exact {
    spares := faultCore_spares i .noResponse k s
    others := faultCore_others i .noResponse k s
    state := (hafter .slotState (by decide +kernel) i).trans (slotState_setSlotState i _ s)
    consumed := hkeeps .consumed (by decide +kernel) i
    committed := (hkeeps .committed (by decide +kernel) i).1
    held := ⟨_, (setSlotState_keeps s i _).mono.trans (withdrawSlot_keeps i _).mono, history_of_keeps (raise_keeps _ _ _ _)⟩ }

theorem NoResponse.before (k : Keeps (.freeCount :: Foot.raise) s t) (hs : Spares s t) (h : NoResponse i t u) : NoResponse i s u where
  spares := hs.trans h.spares
  others := (OtherSlotsSame.of_keeps k).trans h.others
  state := h.state
  consumed := h.consumed.trans (k .consumed (by decide +kernel) i)
  committed := h.committed.trans (k .committed (by decide +kernel) i).1
  held := by
    obtain ⟨v, hv, hhistory⟩ := h.held
    exact ⟨v, k.mono.trans hv.mono, hhistory⟩

theorem NoResponse.after (h : NoResponse i s t) (k : Keeps Foot.changed t u) (hs : Spares t u) (ho : OtherSlotsSame i t u) :
    NoResponse i s u where
  spares := h.spares.trans hs
  others := h.others.trans ho
  state := (k .slotState (by decide +kernel) i).trans h.state
  consumed := (k .consumed (by decide +kernel) i).trans h.consumed
  committed := (k .committed (by decide +kernel) i).1.trans h.committed
  held := by
    obtain ⟨v, hv, hhistory⟩ := h.held
    exact ⟨v, hv, (history_of_keeps k).trans hhistory⟩

theorem NoResponse.raise (h : NoResponse i s t) (k : EventKind) (a : Subject) (d : Nat) : NoResponse i s (raise k a d t) :=
  h.after (raise_keeps k a d t).mono (.raise k a d t) (raise_others i k a d t)

theorem NoResponse.slotChanged (h : NoResponse i s t) : NoResponse i s (slotChanged i t) :=
  h.after (slotChanged_keeps i t) (slotChanged_spares i t) (slotChanged_others i t)

theorem NoResponse.serveOwedCommit (h : NoResponse i s t) : NoResponse i s (serveOwedCommit i t) :=
  h.after (serveOwedCommit_keeps i t).mono (serveOwedCommit_spares i t) (serveOwedCommit_others i t)

/-- R130: the last-seen time and the pending write come with the update. -/
theorem NoResponse.heldEntryTakes (h : NoResponse i s t) :
    HeldEntryTakes s (settle t) i (fun e => { e with known := max e.known (s.slot i).consumed }) := by
  obtain ⟨v, hv, hhistory⟩ := h.held
  refine heldEntryTakes_of_updateHeld (f := fun sl e => e.learn sl.consumed) (hv .lastAuth (by decide +kernel) i)
    (hv .identity (by decide +kernel) i) (history_of_keeps hv) (hv.get .partTime) ?_ fun e => ?_
  · rw [settle_history, hhistory]
    rfl
  · rw [HistoryEntry.learn, hv .consumed (by decide +kernel) i]

/-! ## Exhausted tries (R83, R123) -/

theorem exhaustTries_absent (l : LineNo) (habsent : (s.slot fl.entry.slot).state.present = false) : exhaustTries l fl s = exhausted l s :=
  if_pos habsent

theorem exhaustTries_faults (l : LineNo) (hpresent : (s.slot fl.entry.slot).state.present = true) (hkind : fl.entry.kind ≠ .usageWrite) :
    exhaustTries l fl s = slotChanged fl.entry.slot (faultCore fl.entry.slot .noResponse fl.entry.kind (exhausted l s)) := by
  have hnot : ¬((exhausted l s).slot fl.entry.slot).state.present = false := by
    rw [slot_of_keeps (exhausted_keeps l s) (by decide +kernel), hpresent]
    decide
  unfold exhaustTries
  exact (if_neg hnot).trans (if_neg hkind)

/-- R83, R123, log 8: the two events of an exhausted write, in the order of the free choice. -/
def writeFault (i : SlotNo) (s : State) : State :=
  if Config.freeChoice s.freeCount then
    raise .commitFailed (.slot i) 1 (faultCore i .noResponse .usageWrite { s with freeCount := s.freeCount + 1 })
  else faultCore i .noResponse .usageWrite (raise .commitFailed (.slot i) 1 { s with freeCount := s.freeCount + 1 })

theorem exhaustTries_write (l : LineNo) (hpresent : (s.slot fl.entry.slot).state.present = true) (hkind : fl.entry.kind = .usageWrite) :
    exhaustTries l fl s =
      serveOwedCommit fl.entry.slot (slotChanged fl.entry.slot (writeFault fl.entry.slot (exhausted l s))) := by
  have hnot : ¬((exhausted l s).slot fl.entry.slot).state.present = false := by
    rw [slot_of_keeps (exhausted_keeps l s) (by decide +kernel), hpresent]
    decide
  unfold exhaustTries
  exact (if_neg hnot).trans (if_pos hkind)

theorem countFree_spares (n : Nat) (s : State) : Spares s { s with freeCount := n } := .of_keeps (freeCount_keeps s n)

theorem writeFault_noResponse (i : SlotNo) (s : State) : NoResponse i s (writeFault i s) := by
  have hcount := freeCount_keeps s (s.freeCount + 1)
  unfold writeFault
  split
  · exact ((faultCore_noResponse i .usageWrite _).before hcount.mono (countFree_spares _ s)).raise _ _ _
  · exact (faultCore_noResponse i .usageWrite _).before (hcount.mono.trans (raise_keeps _ _ _ _).mono)
      ((countFree_spares _ s).trans (.raise _ _ _ _))

/-- R83: SLOT_FAULTED for the reason NO_RESPONSE, and COMMIT_FAILED for the same, as events of slot `i`. -/
def faultedEvent (i : SlotNo) (k : TxKind) : Raised := (.slotFaulted, .slot i, 0 * 256 + k.wireNo)

def commitFailedEvent (i : SlotNo) : Raised := (.commitFailed, .slot i, 1)

theorem writeFault_emits (i : SlotNo) (s : State) :
    Emits s (writeFault i s) [faultedEvent i .usageWrite, commitFailedEvent i] ∨
      Emits s (writeFault i s) [commitFailedEvent i, faultedEvent i .usageWrite] := by
  have hcount : Emits s { s with freeCount := s.freeCount + 1 } [] := .of_keeps (freeCount_keeps s _)
  unfold writeFault
  split
  · exact .inl (hcount.trans ((faultCore_emits i .noResponse .usageWrite _).trans (raise_emits _ _ _ _)))
  · exact .inr (hcount.trans ((raise_emits _ _ _ _).trans (faultCore_emits i .noResponse .usageWrite _)))

theorem exhaustTries_noResponse (l : LineNo) (hpresent : (s.slot fl.entry.slot).state.present = true) :
    NoResponse fl.entry.slot (exhausted l s) (exhaustTries l fl s) := by
  by_cases hkind : fl.entry.kind = .usageWrite
  · rw [exhaustTries_write l hpresent hkind]
    exact (writeFault_noResponse _ _).slotChanged.serveOwedCommit
  · rw [exhaustTries_faults l hpresent hkind]
    exact (faultCore_noResponse _ _ _).slotChanged

theorem exhaustTries_spares (l : LineNo) (fl : Flight) (s : State) : Spares (exhausted l s) (exhaustTries l fl s) := by
  cases hpresent : (s.slot fl.entry.slot).state.present with
  | true => exact (exhaustTries_noResponse l hpresent).spares
  | false =>
    rw [exhaustTries_absent l hpresent]
    exact .refl _

theorem exhaustTries_others (l : LineNo) (fl : Flight) (s : State) : OtherSlotsSame fl.entry.slot s (exhaustTries l fl s) := by
  refine (OtherSlotsSame.of_keeps (exhausted_keeps l s)).trans ?_
  cases hpresent : (s.slot fl.entry.slot).state.present with
  | true => exact (exhaustTries_noResponse l hpresent).others
  | false =>
    rw [exhaustTries_absent l hpresent]
    exact .of_keeps (Keeps.refl [] _)

theorem exhaustTries_flight (l : LineNo) (fl : Flight) (s : State) : ((exhaustTries l fl s).line l).flight = none :=
  (exhaustTries_spares l fl s).idle l (by rw [exhausted_line])

theorem exhaustTries_counters (l : LineNo) (fl : Flight) (s : State) :
    ((exhaustTries l fl s).line l).counters =
      { (s.line l).counters with failed := sat32 ((s.line l).counters.failed + 1) } :=
  ((exhaustTries_spares l fl s).counters l).trans (by rw [exhausted_line])

/-- R82, R91: of the counters a failed try leaves to its end, only that of the failed transactions moves. -/
theorem failTry_counters (l : LineNo) (fl : Flight) (s : State) :
    ∃ n, ((failTry l fl s).line l).counters = { (s.line l).counters with failed := n } := by
  cases hwithdrawn : fl.withdrawn with
  | true =>
    rw [failTry_withdrawn hwithdrawn, endWithdrawn_counters]
    exact ⟨_, rfl⟩
  | false =>
    by_cases htry : fl.tryNo < 3
    · rw [failTry_pauses hwithdrawn htry, setFlight_line]
      exact ⟨_, rfl⟩
    · rw [failTry_exhausts hwithdrawn (Nat.not_lt.1 htry), exhaustTries_counters]
      exact ⟨_, rfl⟩

theorem exhaustTries_raises (l : LineNo) (hpresent : (s.slot fl.entry.slot).state.present = true) (hkind : fl.entry.kind ≠ .usageWrite) :
    RaisesThen s (settle (exhaustTries l fl s)) [faultedEvent fl.entry.slot fl.entry.kind] changeKinds := by
  rw [exhaustTries_faults l hpresent hkind]
  exact EmitsOnly.raisesThen ((Emits.of_keeps (exhausted_keeps l s)).after_silent (faultCore_emits _ .noResponse _ _))
    ((slotChanged_only _ _).trans (.silent (settle_emits _)))

theorem exhaustTries_write_raises (l : LineNo) (hpresent : (s.slot fl.entry.slot).state.present = true)
    (hkind : fl.entry.kind = .usageWrite) :
    RaisesThen s (settle (exhaustTries l fl s)) [faultedEvent fl.entry.slot .usageWrite, commitFailedEvent fl.entry.slot] changeKinds ∨
      RaisesThen s (settle (exhaustTries l fl s)) [commitFailedEvent fl.entry.slot, faultedEvent fl.entry.slot .usageWrite]
        changeKinds := by
  rw [exhaustTries_write l hpresent hkind]
  have hafter (u : State) : EmitsOnly changeKinds u (settle (serveOwedCommit fl.entry.slot (slotChanged fl.entry.slot u))) :=
    ((slotChanged_only _ u).trans (.silent (.of_keeps (serveOwedCommit_keeps _ _)))).trans (.silent (settle_emits _))
  have hbefore := Emits.of_keeps (exhausted_keeps l s)
  exact (writeFault_emits fl.entry.slot (exhausted l s)).imp
    (fun h => EmitsOnly.raisesThen (hbefore.after_silent h) (hafter _)) (fun h => EmitsOnly.raisesThen (hbefore.after_silent h) (hafter _))

end Sys2Proof.Machine
end

section
/-!
ANSWER_FRAME, ANSWER_TIMEOUT and RETRY_PAUSE_END (R82): a try that fails, and a command that comes too early or too late.
-/

namespace Sys2Proof.Machine

variable {s : State} {l : LineNo} {fl : Flight}

/-! ## The commands -/

theorem answerFrame_wait {a : AnswerFrame} {ms : Nat} (hfl : (s.line l).flight = some fl) (hphase : fl.phase = .awaiting (ms + 1))
    (hjudge : fl.entry.judge a = .wait) :
    answerFrame l a s = failTry l fl (modCounters l (fun k => { k with waits := sat32 (k.waits + 1) }) s) := by
  simp only [answerFrame, hfl, hphase, hjudge, tryEnded]

theorem answerFrame_check {a : AnswerFrame} {ms : Nat} (hfl : (s.line l).flight = some fl) (hphase : fl.phase = .awaiting (ms + 1))
    (hjudge : fl.entry.judge a = .check) :
    answerFrame l a s = failTry l fl (modCounters l (fun k => { k with checks := sat32 (k.checks + 1) }) s) := by
  simp only [answerFrame, hfl, hphase, hjudge, tryEnded]

theorem answerFrame_ignored (a : AnswerFrame)
    (h : (s.line l).flight = none ∨ ∃ fl, (s.line l).flight = some fl ∧ (fl.phase = .awaiting 0 ∨ ∃ ms, fl.phase = .pausing ms)) :
    answerFrame l a s = s := by
  rcases h with h | ⟨fl, h, hphase | ⟨ms, hphase⟩⟩
  · simp only [answerFrame, h]
  · simp only [answerFrame, h, hphase]
  · simp only [answerFrame, h, hphase]

theorem answerTimeout_over (hfl : (s.line l).flight = some fl) (hphase : fl.phase = .awaiting 0) :
    answerTimeout l s = failTry l fl (modCounters l (fun k => { k with timeouts := sat32 (k.timeouts + 1) }) s) := by
  simp only [answerTimeout, hfl, hphase]

theorem answerTimeout_early {ms : Nat} (hfl : (s.line l).flight = some fl) (hphase : fl.phase = .awaiting (ms + 1)) :
    answerTimeout l s = s := by
  simp only [answerTimeout, hfl, hphase]

/-- The try of a flight sent again, as R82 counts it. -/
def Flight.again (fl : Flight) : Flight := { fl with tryNo := fl.tryNo + 1, phase := .awaiting 20 }

theorem retryPauseEnd_sends (hfl : (s.line l).flight = some fl) (hphase : fl.phase = .pausing 0) :
    retryPauseEnd l s = sendOn l fl.again (s.setLine l { s.line l with flight := some fl.again }) := by
  simp only [retryPauseEnd, hfl, hphase, Flight.again]

theorem retryPauseEnd_early (h : ∀ fl, (s.line l).flight = some fl → fl.phase ≠ .pausing 0) : retryPauseEnd l s = s := by
  unfold retryPauseEnd
  dsimp only
  split
  · next fl hfl =>
    split
    · next hphase => exact absurd hphase (h fl hfl)
    · rfl
    · rfl
  · rfl

/-! ## A failed try, whichever command ends it -/

/-- What the end of a failed try counts (R91): one of the timeouts, waits and failed checks. -/
def FailsTry (c : Instr) (l : LineNo) (fl : Flight) (f : LineCounters → LineCounters) : Prop :=
  (∀ k, (f k).failed = k.failed) ∧ (c = .answerTimeout l → ∀ k, (f k).timeouts = sat32 (k.timeouts + 1)) ∧
  ∀ a, c = .answerFrame l a →
    (fl.entry.judge a = .wait → ∀ k, (f k).waits = sat32 (k.waits + 1)) ∧
    (fl.entry.judge a = .check → ∀ k, (f k).checks = sat32 (k.checks + 1))

theorem exec_failsTry {c : Instr} (hp : s.powered = true) (hfl : (s.line l).flight = some fl)
    (hc : (∃ a ms, c = .answerFrame l a ∧ fl.phase = .awaiting (ms + 1) ∧ (fl.entry.judge a = .wait ∨ fl.entry.judge a = .check)) ∨
      (c = .answerTimeout l ∧ fl.phase = .awaiting 0)) :
    ∃ f, exec c s = .next (settle (failTry l fl (modCounters l f s))) ∧ FailsTry c l fl f := by
  have hends {c : Instr} {f : State → State} {g : LineCounters → LineCounters} (hx : exec c s = live f s)
      (hf : f s = failTry l fl (modCounters l g s)) : exec c s = .next (settle (failTry l fl (modCounters l g s))) :=
    (hx.trans (live_powered hp)).trans (by rw [hf])
  rcases hc with ⟨a, ms, rfl, hphase, hjudge | hjudge⟩ | ⟨rfl, hphase⟩
  · refine ⟨_, hends rfl (answerFrame_wait hfl hphase hjudge), fun _ => rfl, nofun, fun b hb => ?_⟩
    obtain rfl : a = b := (Instr.answerFrame.inj hb).2
    exact ⟨fun _ _ => rfl, fun h => absurd (hjudge.symm.trans h) nofun⟩
  · refine ⟨_, hends rfl (answerFrame_check hfl hphase hjudge), fun _ => rfl, nofun, fun b hb => ?_⟩
    obtain rfl : a = b := (Instr.answerFrame.inj hb).2
    exact ⟨fun h => absurd (hjudge.symm.trans h) nofun, fun _ _ => rfl⟩
  · exact ⟨_, hends rfl (answerTimeout_over hfl hphase), fun _ => rfl, fun _ _ => rfl, nofun⟩

/-- The counters that a failed try itself moves stand so at the end of the step. -/
theorem settle_failTry_counters (l : LineNo) (fl : Flight) (f : LineCounters → LineCounters) (s : State) :
    ∃ n, ((settle (failTry l fl (modCounters l f s))).line l).counters = { f (s.line l).counters with failed := n } := by
  obtain ⟨n, hn⟩ := failTry_counters l fl (modCounters l f s)
  refine ⟨n, ?_⟩
  rw [settle_line, hn, modCounters_line]

theorem settle_endWithdrawn_flight (l : LineNo) (fl : Flight) (s : State) : ((settle (endWithdrawn l fl s)).line l).flight = none := by
  rw [settle_line, endWithdrawn_flight]

/-- The step of exhausted tries, as it stands after the count of how the last try failed. -/
theorem settle_exhaustTries {f : LineCounters → LineCounters} (hf : ∀ k, (f k).failed = k.failed) (l : LineNo) (fl : Flight) (s : State) :
    let t := settle (exhaustTries l fl (modCounters l f s))
    (t.line l).flight = none ∧ (t.line l).counters.failed = sat32 ((s.line l).counters.failed + 1) ∧ OtherSlotsSame fl.entry.slot s t := by
  refine ⟨?_, ?_, settle_others ((OtherSlotsSame.of_keeps (modCounters_keeps l f s)).trans (exhaustTries_others l fl _))⟩
  · rw [settle_line, exhaustTries_flight]
  · rw [settle_line, exhaustTries_counters, modCounters_line, hf]

/-- R83, R103, R123: a slot that is present is faulted; the count of how the last try failed touches no slot and no event. -/
theorem settle_exhaustTries_present (f : LineCounters → LineCounters) (l : LineNo) (hpresent : (s.slot fl.entry.slot).state.present = true) :
    let t := settle (exhaustTries l fl (modCounters l f s))
    (t.slot fl.entry.slot).state = .faulted .noResponse ∧
      (t.slot fl.entry.slot).consumed = (s.slot fl.entry.slot).consumed ∧
      (t.slot fl.entry.slot).committed = (s.slot fl.entry.slot).committed ∧
      (fl.entry.kind ≠ .usageWrite → RaisesThen s t [faultedEvent fl.entry.slot fl.entry.kind] changeKinds) ∧
      (fl.entry.kind = .usageWrite →
        RaisesThen s t [faultedEvent fl.entry.slot fl.entry.kind, commitFailedEvent fl.entry.slot] changeKinds ∨
          RaisesThen s t [commitFailedEvent fl.entry.slot, faultedEvent fl.entry.slot fl.entry.kind] changeKinds) := by
  have hfault := exhaustTries_noResponse (s := modCounters l f s) l hpresent
  refine ⟨?_, ?_, ?_, exhaustTries_raises (s := modCounters l f s) l hpresent, fun hkind => ?_⟩
  · rw [settle_slot, hfault.state]
  · rw [settle_slot, hfault.consumed]
    rfl
  · rw [settle_slot, hfault.committed]
    rfl
  · rw [hkind]
    exact exhaustTries_write_raises (s := modCounters l f s) l hpresent hkind

theorem settle_exhaustTries_heldEntryTakes (f : LineCounters → LineCounters) (l : LineNo)
    (hpresent : (s.slot fl.entry.slot).state.present = true) :
    HeldEntryTakes s (settle (exhaustTries l fl (modCounters l f s))) fl.entry.slot
      (fun e => { e with known := max e.known (s.slot fl.entry.slot).consumed }) :=
  (exhaustTries_noResponse (s := modCounters l f s) l hpresent).heldEntryTakes

theorem settle_exhaustTries_absent (f : LineCounters → LineCounters) (l : LineNo)
    (habsent : (s.slot fl.entry.slot).state.present = false) :
    let t := settle (exhaustTries l fl (modCounters l f s))
    Raises s t [] ∧ ∀ m, t.history.entry m = s.history.entry m := by
  have hended : exhaustTries l fl (modCounters l f s) = exhausted l (modCounters l f s) := exhaustTries_absent l habsent
  have hkeeps : Keeps [.lines] s (exhausted l (modCounters l f s)) := (modCounters_keeps l f s).trans (exhausted_keeps l _)
  rw [hended]
  refine ⟨((Emits.of_keeps hkeeps).then_silent (settle_emits _)).raises, fun m => ?_⟩
  rw [settle_entry, history_of_keeps hkeeps]

/-- Settles O31, by what the command finds in flight: `failTry` ends the try in one of three ways, and a command at the wrong time does nothing. -/
theorem failedTries : Obligations.FailedTries := by
  unfold Obligations.FailedTries
  refine ⟨fun s l fl c hp hfl hc => ?_, fun s l fl ms hp hfl hphase => ?_, fun s l a hp h => ?_, fun s l fl hp hfl hphase => ?_,
    fun s l hp h => ?_⟩
  · obtain ⟨f, hx, hfailed, htimeout, hanswer⟩ := exec_failsTry hp hfl hc
    obtain ⟨n, hcounters⟩ := settle_failTry_counters l fl f s
    refine ⟨_, hx, fun e => ?_, fun a e => ⟨fun hjudge => ?_, fun hjudge => ?_⟩, fun hwithdrawn => ?_, fun hwithdrawn htry => ?_,
      fun hwithdrawn htry => ?_⟩
    · exact (congrArg LineCounters.timeouts hcounters).trans (htimeout e _)
    · exact (congrArg LineCounters.waits hcounters).trans ((hanswer a e).1 hjudge _)
    · exact (congrArg LineCounters.checks hcounters).trans ((hanswer a e).2 hjudge _)
    · rw [failTry_withdrawn hwithdrawn]
      exact ⟨settle_endWithdrawn_flight l fl _,
        ((modCounters_keeps l f s).mono.trans (endWithdrawn_keeps l fl _).mono).trans (settle_keeps _).mono⟩
    · rw [failTry_pauses hwithdrawn htry]
      refine ⟨?_, ((modCounters_keeps l f s).mono.trans (setFlight_keeps l _ _).mono).trans (settle_keeps _).mono⟩
      rw [settle_line, setFlight_line]
    · rw [failTry_exhausts hwithdrawn htry]
      obtain ⟨hflight, hcount, hothers⟩ := settle_exhaustTries hfailed l fl s
      exact ⟨hflight, hcount, settle_exhaustTries_present f l, settle_exhaustTries_heldEntryTakes f l, settle_exhaustTries_absent f l, hothers,
        ((modCounters_keeps l f s).mono.trans (exhaustTries_keeps l fl _).mono).trans (settle_keeps _).mono⟩
  · exact ⟨_, (live_powered hp).trans (by rw [answerTimeout_early hfl hphase]), settle_keeps s⟩
  · exact ⟨_, (live_powered hp).trans (by rw [answerFrame_ignored a h]), settle_keeps s⟩
  · have hx : exec (.retryPauseEnd l) s = .next (kickLane (retryPauseEnd l s)) := quiet_powered hp
    have hframe := exec_keeps _ s _ rfl hx
    rw [retryPauseEnd_sends hfl hphase] at hx hframe
    exact ⟨_, hx, line_setLine_same _ _ _, rfl, fun m hm => line_setLine_other _ _ hm, hframe⟩
  · exact ⟨_, (quiet_powered hp).trans (by rw [retryPauseEnd_early h]), kickLane_keeps s⟩

end Sys2Proof.Machine
end

section
/-!
The schedule's tick at which one entry is due (R156, R157, R160, R164): what the table makes of it.
-/

namespace Sys2Proof.Machine

variable {s u v : State} {n : SchedNo}

/-! ## The table -/

/-- The state with another schedule. -/
def State.atTick (s : State) (g : Schedule) : State := { s with schedule := g }

theorem atTick_keeps (s : State) (g : Schedule) : Keeps [.scheduleTable, .scheduleState, .scheduleTick] s (s.atTick g) := by
  intro p hp
  cases p <;> first
    | exact absurd (by decide) hp | exact rfl | exact ⟨rfl, rfl⟩ | exact ⟨rfl, rfl, rfl⟩ | exact fun _ => rfl
    | exact fun _ => ⟨rfl, rfl⟩

theorem setEntry_same (n : SchedNo) (e : SchedEntry) (s : State) : nth (setEntry n e s).schedule.entries n = e := nth_upd_same ..

theorem setEntry_other {k : SchedNo} (h : k ≠ n) (e : SchedEntry) (s : State) :
    nth (setEntry n e s).schedule.entries k = nth s.schedule.entries k := nth_upd_ne _ _ h.symm

/-- R160: the work of an entry touches no part of the schedule. -/
theorem placeWork_keeps_changed (e : SchedEntry) (s : State) : Keeps (.slotState :: Foot.changed) s (placeWork e s).1 := by
  unfold placeWork
  split
  · exact startRechallenge_keeps _ _ s
  · exact (trigger_keeps _ _ s).mono
  · split
    · exact .refl _ s
    · split
      · exact .refl _ s
      · exact (startAudit_keeps _ _ _ s).mono

theorem startRechallenge_others (i : SlotNo) (o : Origin) (s : State) : OtherSlotsSame i s (startRechallenge i o s).1 := by
  unfold startRechallenge
  split
  · exact .refl i s
  · dsimp only
    split
    · exact ((OtherSlotsSame.of_keeps (place_keeps i _ _ _ s)).trans (setSlotState_others _ i _)).trans (slotChanged_others i _)
    · exact .refl i s

theorem placeWork_others (e : SchedEntry) (s : State) : OtherSlotsSame e.slot s (placeWork e s).1 := by
  unfold placeWork
  split
  · exact startRechallenge_others _ _ s
  · exact trigger_others _ _ s
  · split
    · exact .refl _ s
    · split
      · exact .refl _ s
      · exact .of_keeps (startAudit_keeps _ _ _ s)

/-! ## One entry (R160, R164) -/

/-- R160: the entry is due. -/
def Due (s : State) (n : SchedNo) : Prop := (nth s.schedule.entries n).enabled = true ∧ (nth s.schedule.entries n).nextDue ≤ s.schedule.tick

/-- R160 step 3, for an entry whose next due stays a tick value. -/
def SchedEntry.moved (e : SchedEntry) : SchedEntry := { e with nextDue := e.nextDue + e.period }

/-- R164: one more miss, up to 255. -/
def SchedEntry.missedOnce (e : SchedEntry) : SchedEntry := { e with missed := min (e.missed + 1) 255 }

theorem advance_eq {e : SchedEntry} (he : nth s.schedule.entries n = e) (hnext : e.nextDue + e.period < 2 ^ 48) :
    advance n s = setEntry n e.moved s := by
  unfold advance
  rw [he]
  dsimp only
  rw [tick48, if_pos hnext]
  rfl

theorem takeEntry_notDue (h : ¬Due s n) : takeEntry s n = s := if_neg h

section

variable {e : SchedEntry} (hdue : Due s n) (he : nth s.schedule.entries n = e) (hnext : e.nextDue + e.period < 2 ^ 48)

include hdue he hnext

theorem takeEntry_skipped (hskip : notSkipped s e = false) : takeEntry s n = setEntry n e.moved s := by
  obtain ⟨hon, hle⟩ := hdue
  unfold takeEntry
  dsimp only
  rw [if_pos ⟨hon, hle⟩, he, if_neg (by simp [hskip])]
  exact advance_eq he hnext

theorem takeEntry_placed (hwork : notSkipped s e = true) (hplaced : placeWork e s = (v, none)) :
    takeEntry s n = setEntry n e.moved v := by
  have hentries : v.schedule.entries = s.schedule.entries := by
    have hkeeps := placeWork_keeps_changed e s
    rw [hplaced] at hkeeps
    exact hkeeps.get .scheduleTable
  obtain ⟨hon, hle⟩ := hdue
  unfold takeEntry
  dsimp only
  rw [if_pos ⟨hon, hle⟩, he, if_pos hwork, hplaced]
  exact advance_eq (by rw [hentries, he]) hnext

theorem takeEntry_missed {c : MissCause} (hwork : notSkipped s e = true) (hmissed : placeWork e s = (s, some c)) :
    takeEntry s n = setEntry n e.missedOnce.moved
      (raise .scheduleMiss (.entry n) (e.kind.no * 2 ^ 24 + e.slot.val * 2 ^ 16 + c.no * 256 + min (e.missed + 1) 255)
        (setEntry n e.missedOnce s)) := by
  have hmiss : miss n c s = raise .scheduleMiss (.entry n)
      (e.kind.no * 2 ^ 24 + e.slot.val * 2 ^ 16 + c.no * 256 + min (e.missed + 1) 255) (setEntry n e.missedOnce s) := by
    unfold miss
    rw [he]
    rfl
  obtain ⟨hon, hle⟩ := hdue
  unfold takeEntry
  dsimp only
  rw [if_pos ⟨hon, hle⟩, he, if_pos hwork, hmissed]
  dsimp only
  rw [hmiss]
  refine advance_eq (e := e.missedOnce) ?_ hnext
  rw [(raise_keeps _ _ _ _).get .scheduleTable, setEntry_same]

end

/-- R160: an entry that is taken leaves the tick, and the other entries. -/
theorem takeEntry_keeps_tick (s : State) (n : SchedNo) : Keeps (.scheduleTable :: .slotState :: Foot.changed) s (takeEntry s n) := by
  unfold takeEntry advance
  dsimp only
  refine Keeps.ite (fun _ => Keeps.ite (fun _ => ?_) (fun _ => (setEntry_keeps n _ s).mono)) (fun _ => .refl _ s)
  split
  · exact (placeWork_keeps_changed _ s).mono.trans (setEntry_keeps n _ _).mono
  · refine Keeps.trans ?_ (setEntry_keeps n _ _).mono
    exact ((placeWork_keeps_changed _ s).mono.trans (setEntry_keeps n _ _).mono).trans (raise_keeps _ _ _ _).mono

theorem miss_keeps (n : SchedNo) (c : MissCause) (s : State) : Keeps (.scheduleTable :: Foot.raise) s (miss n c s) :=
  (setEntry_keeps n _ s).mono.trans (raise_keeps _ _ _ _).mono

theorem takeEntry_entry_other {k : SchedNo} (h : k ≠ n) (s : State) :
    nth (takeEntry s n).schedule.entries k = nth s.schedule.entries k := by
  have hwork : nth (placeWork (nth s.schedule.entries n) s).1.schedule.entries k = nth s.schedule.entries k :=
    congrArg (nth · k) ((placeWork_keeps_changed _ s).get .scheduleTable)
  have hmiss (c : MissCause) (v : State) : nth (miss n c v).schedule.entries k = nth v.schedule.entries k :=
    (congrArg (nth · k) ((raise_keeps _ _ _ _).get .scheduleTable)).trans (setEntry_other h _ v)
  unfold takeEntry advance
  dsimp only
  split
  · split
    · rw [setEntry_other h]
      split
      · exact hwork
      · exact (hmiss _ _).trans hwork
    · exact setEntry_other h _ s
  · rfl

theorem takeEntry_others (s : State) (n : SchedNo) : OtherSlotsSame (nth s.schedule.entries n).slot s (takeEntry s n) := by
  have hset (e : SchedEntry) (v : State) : OtherSlotsSame (nth s.schedule.entries n).slot v (setEntry n e v) := .of_keeps (setEntry_keeps n e v)
  unfold takeEntry advance
  dsimp only
  split
  · split
    · refine OtherSlotsSame.trans ?_ (hset _ _)
      split
      · exact placeWork_others _ s
      · exact (placeWork_others _ s).trans (.of_keeps (miss_keeps n _ _))
    · exact hset _ s
  · exact .refl _ s

theorem foldl_takeEntry_notDue (xs : List SchedNo) (h : ∀ k ∈ xs, ¬Due s k) : xs.foldl takeEntry s = s :=
  List.foldlRecOn (motive := (· = s)) xs takeEntry rfl fun t ht k hk => by
    rw [ht]
    exact takeEntry_notDue (h k hk)

/-- R160: where only one entry is due, the table is that entry's work. -/
theorem processTable_onlyDue (h : ∀ k, k ≠ n → ¬Due s k) : processTable s = takeEntry s n := by
  obtain ⟨before, after, hsplit⟩ := List.append_of_mem (List.mem_finRange n)
  have hdistinct : n ∉ before ++ after := by
    have hnodup := List.nodup_finRange 64
    rw [hsplit, List.nodup_middle] at hnodup
    exact (List.nodup_cons.1 hnodup).1
  rw [List.mem_append, not_or] at hdistinct
  have hafter (k : SchedNo) (hk : k ∈ after) : ¬Due (takeEntry s n) k := by
    have hne : k ≠ n := fun e => hdistinct.2 (e ▸ hk)
    have htick : (takeEntry s n).schedule.tick = s.schedule.tick := ((takeEntry_keeps_tick s n).get .scheduleTick).1
    unfold Due
    rw [takeEntry_entry_other hne, htick]
    exact h k hne
  unfold processTable
  rw [hsplit, List.foldl_append, List.foldl_cons,
    foldl_takeEntry_notDue before fun k hk => h k fun e => hdistinct.1 (e ▸ hk), foldl_takeEntry_notDue after hafter]

/-! ## The tick -/

/-- The schedule at the tick of count `T` at which only entry `n` of `s` is due, with next due `due`. -/
structure DueTick (s : State) (n : SchedNo) (T due : Nat) (g : Schedule) : Prop where
  running : g.running = true
  tick : g.tick = T
  entry : nth g.entries n = { nth s.schedule.entries n with nextDue := due }
  next : due + (nth s.schedule.entries n).period < 2 ^ 48
  isDue : Due (s.atTick g) n
  only : ∀ k, k ≠ n → ¬Due (s.atTick g) k

/-- The tick as it takes 10 ms off the clock. -/
def clocked (s : State) : State := { s with schedule := { s.schedule with sinceTick := s.schedule.sinceTick - 10 } }

theorem scheduleTick_clocked (h : 10 ≤ s.schedule.sinceTick) : scheduleTick s = scheduleStep (clocked s) := if_pos h

theorem scheduleStep_run (h : s.schedule.action = .run) : scheduleStep s = processTable (applyRunAction s) := by
  unfold scheduleStep
  rw [h]

theorem scheduleStep_count (h : s.schedule.action = .none) (hrunning : s.schedule.running = true) (hlt : s.schedule.tick + 1 < 2 ^ 48) :
    scheduleStep s = processTable { s with schedule := { s.schedule with tick := s.schedule.tick + 1 } } := by
  unfold scheduleStep
  rw [h]
  dsimp only
  rw [if_pos hrunning, tick48, if_pos hlt]

theorem applyRunAction_entry (s : State) (n : SchedNo) :
    nth (applyRunAction s).schedule.entries n =
      if (nth s.schedule.entries n).enabled then { nth s.schedule.entries n with nextDue := (nth s.schedule.entries n).offset }
      else nth s.schedule.entries n := nth_tab _ n

theorem applyRunAction_clocked (s : State) : applyRunAction (clocked s) = s.atTick (applyRunAction (clocked s)).schedule := rfl

/-- The schedule of `s` after its next tick, where no action is pending. -/
def Schedule.counted (g : Schedule) : Schedule := { g with tick := g.tick + 1, sinceTick := g.sinceTick - 10 }

theorem scheduleTick_run (hclock : 10 ≤ s.schedule.sinceTick) (haction : s.schedule.action = .run) :
    scheduleTick s = processTable (s.atTick (applyRunAction (clocked s)).schedule) := by
  rw [scheduleTick_clocked hclock, scheduleStep_run (s := clocked s) haction, ← applyRunAction_clocked]

theorem scheduleTick_count (hclock : 10 ≤ s.schedule.sinceTick) (haction : s.schedule.action = .none)
    (hrunning : s.schedule.running = true) (hlt : s.schedule.tick + 1 < 2 ^ 48) :
    scheduleTick s = processTable (s.atTick s.schedule.counted) := by
  rw [scheduleTick_clocked hclock, scheduleStep_count (s := clocked s) haction hrunning hlt]
  rfl

section

variable {T due : Nat} {g : Schedule}

/-- A due tick in terms of the table that it works on. -/
theorem DueTick.of_entry (hrunning : g.running = true) (htick : g.tick = T) (henabled : (nth s.schedule.entries n).enabled = true)
    (hle : due ≤ T) (hnext : due + (nth s.schedule.entries n).period < 2 ^ 48)
    (hentry : nth g.entries n = { nth s.schedule.entries n with nextDue := due })
    (honly : ∀ k, k ≠ n → (nth g.entries k).enabled = false ∨ T < (nth g.entries k).nextDue) : DueTick s n T due g where
  running := hrunning
  tick := htick
  entry := hentry
  next := hnext
  isDue := by
    have hdue : (nth g.entries n).enabled = true ∧ (nth g.entries n).nextDue ≤ g.tick := by
      rw [hentry, htick]
      exact ⟨henabled, hle⟩
    exact hdue
  only k hk hdue := by
    obtain ⟨hon, hle⟩ : (nth g.entries k).enabled = true ∧ (nth g.entries k).nextDue ≤ g.tick := hdue
    rcases honly k hk with hoff | hlater
    · exact absurd (hoff.symm.trans hon) nofun
    · omega

theorem dueTick_run (henabled : (nth s.schedule.entries n).enabled = true) (hdue : due = (nth s.schedule.entries n).offset)
    (hle : due ≤ 0) (hnext : due + (nth s.schedule.entries n).period < 2 ^ 48)
    (honly : ∀ k, k ≠ n → (nth s.schedule.entries k).enabled = false ∨ 0 < (nth s.schedule.entries k).offset) :
    DueTick s n 0 due (applyRunAction (clocked s)).schedule := by
  have hentry (k : SchedNo) : nth (applyRunAction (clocked s)).schedule.entries k =
      if (nth s.schedule.entries k).enabled then { nth s.schedule.entries k with nextDue := (nth s.schedule.entries k).offset }
      else nth s.schedule.entries k := applyRunAction_entry (clocked s) k
  refine .of_entry rfl rfl henabled hle hnext ?_ fun k hk => ?_
  · rw [hentry, if_pos henabled, hdue]
  · rw [hentry]
    by_cases hon : (nth s.schedule.entries k).enabled = true
    · rw [if_pos hon]
      exact honly k hk
    · rw [if_neg hon]
      exact .inl (by simpa using hon)

/-- R156, R157: the tick, out of a pending RUN or in the running schedule. -/
theorem scheduleTick_onlyDue (h : OnlyDue s n T due) : ∃ g, DueTick s n T due g ∧ scheduleTick s = takeEntry (s.atTick g) n := by
  obtain ⟨_, hclock, haction, henabled, hdue, hle, hnext, honly⟩ := h
  rcases haction with ⟨haction, rfl⟩ | ⟨haction, hrunning, rfl, hlt⟩
  · have hg := dueTick_run henabled (hdue.trans (if_pos haction)) hle hnext fun k hk =>
      (honly k hk).imp_right fun hlater => hlater.trans_eq (if_pos haction)
    exact ⟨_, hg, (scheduleTick_run hclock haction).trans (processTable_onlyDue hg.only)⟩
  · have hnone : s.schedule.action ≠ .run := by
      rw [haction]
      nofun
    have hg : DueTick s n (s.schedule.tick + 1) due s.schedule.counted := by
      refine .of_entry hrunning rfl henabled hle hnext ?_ fun k hk =>
        (honly k hk).imp_right fun hlater => hlater.trans_eq (if_neg hnone)
      have hsame : due = (nth s.schedule.entries n).nextDue := hdue.trans (if_neg hnone)
      rw [hsame]
      rfl
    exact ⟨_, hg, (scheduleTick_count hclock haction hrunning hlt).trans (processTable_onlyDue hg.only)⟩

end

end Sys2Proof.Machine
end

section
/-!
The work of a due entry (R160-R164): what `placeWork` makes of each kind, and what the tick's state shows of it.
-/

namespace Sys2Proof.Machine

variable {s u v : State} {i : SlotNo} {n : SchedNo} {e : SchedEntry}

/-! ## Skipping (R160) -/

theorem notSkipped_unserved (h : (s.slot e.slot).state.inService = false) : notSkipped s e = false := by
  unfold notSkipped
  dsimp only
  rw [h, Bool.false_and]

theorem notSkipped_rechallenge (hkind : e.kind = .rechallenge) (h : (s.slot e.slot).state.inService = true) :
    notSkipped s e = !isPending s e.slot .challenge := by
  unfold notSkipped
  dsimp only
  rw [h, hkind, Bool.true_and]

theorem notSkipped_commit (hkind : e.kind = .commit) (h : (s.slot e.slot).state.inService = true) :
    notSkipped s e = (decide ((s.slot e.slot).committed < (s.slot e.slot).consumed) && !isPending s e.slot .usageWrite) := by
  unfold notSkipped
  dsimp only
  rw [h, hkind, Bool.true_and]

theorem notSkipped_audit (hkind : e.kind = .audit) (h : (s.slot e.slot).state.inService = true) : notSkipped s e = true := by
  unfold notSkipped
  dsimp only
  rw [h, hkind, Bool.true_and]

/-! ## RECHALLENGE (R104) -/

theorem placeWork_rechallenge_joins {r : ReturnState} (hkind : e.kind = .rechallenge) (hstate : (s.slot e.slot).state = r.state)
    (hroom : (s.line (lineOf e.slot)).queue.length ≤ 4) :
    placeWork e s =
      (slotChanged e.slot ((s.setLine (lineOf e.slot) ((s.line (lineOf e.slot)).joined (placedEntry e.slot .challenge .schedule none))).setSlotState
        e.slot (.challenging (.rechallenge r))), none) := by
  have hplace := place_schedule_joins (i := e.slot) .challenge none hroom
  unfold placeWork
  rw [hkind]
  dsimp only
  rw [startRechallenge_taken hstate (congrArg Prod.snd hplace), hplace]
  rfl

theorem placeWork_rechallenge_full (hkind : e.kind = .rechallenge) (hfull : 4 < (s.line (lineOf e.slot)).queue.length) :
    placeWork e s = (s, some .lineFull) := by
  have hplace := place_schedule_refused (i := e.slot) .challenge none hfull
  unfold placeWork
  rw [hkind]
  dsimp only
  rw [startRechallenge_refused (congrArg Prod.snd hplace)]
  rfl

/-! ## COMMIT (R117, R118, R150) -/

theorem commitEligible_of_inService {st : SlotState} (h : st.inService = true) : st.commitEligible = true := by
  cases st with
  | genuine | suspect | depleted => rfl
  | _ => cases h

theorem trigger_held (o : Origin) (heligible : (s.slot i).state.commitEligible = true) (hheld : heldSlot s = some i) :
    trigger i o s = (pressureTest i (setOwedCommit i true s), true) := by
  unfold trigger
  rw [if_neg (by simp [heligible]), if_pos hheld]

theorem trigger_places (o : Origin) (heligible : (s.slot i).state.commitEligible = true) (hunheld : heldSlot s ≠ some i)
    (hfree : isPending s i .usageWrite = false) : trigger i o s = place i .usageWrite o none s := by
  unfold trigger
  rw [if_neg (by simp [heligible]), if_neg hunheld, if_neg (by simp [hfree])]

theorem pressureTest_within (h : (s.slot i).consumed - (s.slot i).committed ≤ pressureLimit s i) : pressureTest i s = s :=
  if_neg fun hover => Nat.not_lt.2 h hover.2

theorem pressureTest_over (hheld : heldSlot s = some i) (h : pressureLimit s i < (s.slot i).consumed - (s.slot i).committed) :
    pressureTest i s = auditEnd (some .commitPressure) (setOwedCommit i true s) := if_pos ⟨hheld, h⟩

theorem pressureLimit_setOwedCommit (i j : SlotNo) (b : Bool) (s : State) : pressureLimit (setOwedCommit i b s) j = pressureLimit s j := rfl

theorem setOwedCommit_slot (i : SlotNo) (b : Bool) (s : State) : (setOwedCommit i b s).slot i = { s.slot i with owedCommit := b } :=
  slot_setSlot_same _ _ _

theorem placeWork_commit_held (hkind : e.kind = .commit) (heligible : (s.slot e.slot).state.commitEligible = true)
    (hheld : heldSlot s = some e.slot) : placeWork e s = (pressureTest e.slot (setOwedCommit e.slot true s), none) := by
  unfold placeWork
  rw [hkind]
  dsimp only
  rw [trigger_held .schedule heligible hheld]
  rfl

theorem placeWork_commit_joins (hkind : e.kind = .commit) (heligible : (s.slot e.slot).state.commitEligible = true)
    (hunheld : heldSlot s ≠ some e.slot) (hfree : isPending s e.slot .usageWrite = false)
    (hroom : (s.line (lineOf e.slot)).queue.length ≤ 4) :
    placeWork e s =
      (s.setLine (lineOf e.slot) ((s.line (lineOf e.slot)).joined (placedEntry e.slot .usageWrite .schedule none)), none) := by
  unfold placeWork
  rw [hkind]
  dsimp only
  rw [trigger_places .schedule heligible hunheld hfree, place_schedule_joins .usageWrite none hroom]
  rfl

theorem placeWork_commit_full (hkind : e.kind = .commit) (heligible : (s.slot e.slot).state.commitEligible = true)
    (hunheld : heldSlot s ≠ some e.slot) (hfree : isPending s e.slot .usageWrite = false)
    (hfull : 4 < (s.line (lineOf e.slot)).queue.length) : placeWork e s = (s, some .lineFull) := by
  unfold placeWork
  rw [hkind]
  dsimp only
  rw [trigger_places .schedule heligible hunheld hfree, place_schedule_refused .usageWrite none hfull]
  rfl

/-- R124: a slot that owes a commit, is not held and has one to make has a write pending once it is served. -/
theorem serveOwedCommit_pends (howed : (s.slot i).owedCommit = true) (hunheld : heldSlot s ≠ some i)
    (heligible : (s.slot i).state.commitEligible = true) (hbehind : (s.slot i).committed < (s.slot i).consumed) :
    isPending (serveOwedCommit i s) i .usageWrite = true := by
  unfold serveOwedCommit
  dsimp only
  rw [if_neg (by simp [howed]), if_neg hunheld]
  split
  · next hpending => exact hpending
  · rw [if_neg (by simp [heligible])]
    exact request_pending i .usageWrite _ (by decide)

/-- R153: the audit ends, its read is withdrawn, and what its slot owes is served. -/
theorem auditEnd_aborts (hslot : s.audit.slot = some i) (a : AbortReason) :
    auditEnd (some a) s =
      raise .auditFinished (.slot i) ((AuditState.aborted a).endingNo * 2 ^ 24 + s.audit.failing.length * 2 ^ 16 + s.audit.passes)
        (serveOwedCommit i (withdrawRead i (s.setAudit { s.audit with state := .aborted a, pass := none }))) := by
  unfold auditEnd
  rw [hslot]

theorem auditEnd_audit (hslot : s.audit.slot = some i) (a : AbortReason) :
    (auditEnd (some a) s).audit = { s.audit with state := .aborted a, pass := none } := by
  rw [auditEnd_aborts hslot, (raise_keeps _ _ _ _).get .audit, (serveOwedCommit_keeps _ _).get .audit, (withdrawRead_keeps _ _).get .audit]
  rfl

/-- R124, R150: the end of the audit that held the slot leaves its owed write pending. -/
theorem auditEnd_pends (hslot : s.audit.slot = some i) (a : AbortReason) (howed : (s.slot i).owedCommit = true)
    (heligible : (s.slot i).state.commitEligible = true) (hbehind : (s.slot i).committed < (s.slot i).consumed) :
    isPending (auditEnd (some a) s) i .usageWrite = true := by
  have hended : Keeps [.audit, .lines] s (withdrawRead i (s.setAudit { s.audit with state := .aborted a, pass := none })) :=
    (setAudit_keeps s _).mono.trans (withdrawRead_keeps i _).mono
  have hunheld : heldSlot (withdrawRead i (s.setAudit { s.audit with state := .aborted a, pass := none })) ≠ some i := by
    rw [heldSlot_congr ((withdrawRead_keeps i _).get .audit)]
    exact nofun
  rw [auditEnd_aborts hslot, isPending_of_lines ((raise_keeps _ _ _ _).get .lines)]
  refine serveOwedCommit_pends ?_ hunheld ?_ ?_ <;> rw [slot_of_keeps hended]
  · exact howed
  · exact heligible
  · exact hbehind

/-! ## AUDIT (R141, R161) -/

theorem placeWork_audit_busy (hkind : e.kind = .audit) (hactive : s.audit.state.active = true) :
    placeWork e s = (s, some .auditBusy) := by
  unfold placeWork
  rw [hkind]
  exact if_pos hactive

theorem placeWork_audit_full (hkind : e.kind = .audit) (hidle : s.audit.state.active = false)
    (hfull : 4 < (s.line (lineOf e.slot)).queue.length) : placeWork e s = (s, some .lineFull) := by
  unfold placeWork
  rw [hkind]
  dsimp only
  rw [if_neg (by simp [hidle])]
  exact if_pos (by unfold Line.free; omega)

theorem placeWork_audit_starts (hkind : e.kind = .audit) (hidle : s.audit.state.active = false)
    (hroom : (s.line (lineOf e.slot)).queue.length ≤ 4) :
    placeWork e s =
      ((s.setAudit (startedAudit e.slot .once false)).setLine (lineOf e.slot)
        ((s.line (lineOf e.slot)).joined (placedEntry e.slot .recordRead .other (some 0))), none) := by
  have hplace := place_other_joins (s := s.setAudit (startedAudit e.slot .once false)) (i := e.slot) .recordRead (some 0)
    (Nat.lt_of_le_of_lt hroom (by decide))
  unfold placeWork
  rw [hkind]
  dsimp only
  rw [if_neg (by simp [hidle]), if_neg (by unfold Line.free; omega), startAudit_eq, hplace]
  rfl

end Sys2Proof.Machine
end

section
/-!
SCHEDULE_TICK with one entry due, as Safety.lean states its results (R160-R164).
-/

namespace Sys2Proof.Machine

variable {s t u v : State} {i : SlotNo} {n : SchedNo} {T due : Nat} {g : Schedule}

/-! ## What the tick shows -/

/-- R160: the entry after its tick. -/
def tickedEntry (s : State) (n : SchedNo) (due : Nat) : SchedEntry :=
  { nth s.schedule.entries n with nextDue := due + (nth s.schedule.entries n).period }

/-- R160: the entry has moved on, and nothing else has happened. -/
def TicksQuietly (s t : State) (n : SchedNo) (due : Nat) : Prop :=
  nth t.schedule.entries n = tickedEntry s n due ∧ Keeps ([.scheduleTable, .scheduleState, .scheduleTick] ++ Foot.settle) s t

/-- R164: the entry has moved on and counts a miss, which is raised with its cause. -/
def TickMisses (s t : State) (n : SchedNo) (due cause : Nat) : Prop :=
  nth t.schedule.entries n = (tickedEntry s n due).missedOnce ∧
  Raises s t [(.scheduleMiss, .entry n, (nth s.schedule.entries n).kind.no * 2 ^ 24 + (nth s.schedule.entries n).slot.val * 2 ^ 16 +
    cause * 256 + min ((nth s.schedule.entries n).missed + 1) 255)] ∧
  Keeps ([.scheduleTable, .scheduleState, .scheduleTick] ++ Foot.raise ++ Foot.settle) s t

/-- R85: a request stands at the tail of the queue of its line, and the other lines are as before. -/
def JoinsLine (s t : State) (i : SlotNo) (k : TxKind) (o : Origin) (rec : Option RecNo) : Prop :=
  t.line (lineOf i) = (s.line (lineOf i)).joined (placedEntry i k o rec) ∧ ∀ m, m ≠ lineOf i → t.line m = s.line m

theorem JoinsLine.of_lines {k : TxKind} {o : Origin} {rec : Option RecNo}
    (h : t.lines = (s.setLine (lineOf i) ((s.line (lineOf i)).joined (placedEntry i k o rec))).lines) : JoinsLine s t i k o rec :=
  ⟨(congrArg (nth · (lineOf i)) h).trans (line_setLine_same _ _ _),
    fun m hm => (congrArg (nth · m) h).trans (line_setLine_other _ _ hm)⟩

theorem joined_lines (s : State) (g : Schedule) (l : LineNo) (x : TxEntry) :
    ((s.atTick g).setLine l (((s.atTick g).line l).joined x)).lines = (s.setLine l ((s.line l).joined x)).lines := rfl

theorem settle_setEntry_same (n : SchedNo) (e : SchedEntry) (v : State) : nth (settle (setEntry n e v)).schedule.entries n = e :=
  (congrArg (nth · n) ((settle_keeps _).get .scheduleTable)).trans (setEntry_same n e v)

theorem settle_setEntry_keeps (n : SchedNo) (e : SchedEntry) (v : State) :
    Keeps (.scheduleTable :: Foot.settle) v (settle (setEntry n e v)) :=
  (setEntry_keeps n e v).mono.trans (settle_keeps _).mono

theorem started_lines (s : State) (g : Schedule) (a : Audit) (l : LineNo) (x : TxEntry) :
    (((s.atTick g).setAudit a).setLine l (((s.atTick g).line l).joined x)).lines = (s.setLine l ((s.line l).joined x)).lines := rfl

/-! ## Commit pressure at the tick (R150) -/

theorem owed_within (g : Schedule) (h : (s.slot i).consumed - (s.slot i).committed ≤ pressureLimit s i) :
    ((setOwedCommit i true (s.atTick g)).slot i).consumed - ((setOwedCommit i true (s.atTick g)).slot i).committed ≤
      pressureLimit (setOwedCommit i true (s.atTick g)) i := by
  rw [setOwedCommit_slot, pressureLimit_setOwedCommit]
  exact h

theorem owed_over (g : Schedule) (h : pressureLimit s i < (s.slot i).consumed - (s.slot i).committed) :
    pressureLimit (setOwedCommit i true (s.atTick g)) i <
      ((setOwedCommit i true (s.atTick g)).slot i).consumed - ((setOwedCommit i true (s.atTick g)).slot i).committed := by
  rw [setOwedCommit_slot, pressureLimit_setOwedCommit]
  exact h

/-- R124, R150: the audit ends for commit pressure, and the write that the slot owes is pending. -/
theorem pressure_ends (g : Schedule) (hheld : heldSlot s = some i) (heligible : (s.slot i).state.commitEligible = true)
    (hbehind : (s.slot i).committed < (s.slot i).consumed) :
    let v := auditEnd (some .commitPressure) (setOwedCommit i true (setOwedCommit i true (s.atTick g)))
    v.audit = { s.audit with state := .aborted .commitPressure, pass := none } ∧ isPending v i .usageWrite = true := by
  have hslot : (setOwedCommit i true (setOwedCommit i true (s.atTick g))).audit.slot = some i := heldSlot_slot hheld
  have hrecord : (setOwedCommit i true (setOwedCommit i true (s.atTick g))).slot i = { s.slot i with owedCommit := true } := by
    rw [setOwedCommit_slot, setOwedCommit_slot]
    rfl
  refine ⟨auditEnd_audit hslot _, auditEnd_pends hslot _ ?_ ?_ ?_⟩ <;> rw [hrecord]
  · exact heligible
  · exact hbehind

/-! ## The three results of a due entry -/

namespace DueTick

variable (h : DueTick s n T due g)

include h

theorem skips (hskip : notSkipped s (nth s.schedule.entries n) = false) : TicksQuietly s (settle (takeEntry (s.atTick g) n)) n due := by
  have htaken : takeEntry (s.atTick g) n = setEntry n (tickedEntry s n due) (s.atTick g) := takeEntry_skipped h.isDue h.entry h.next hskip
  rw [htaken]
  exact ⟨settle_setEntry_same .., (atTick_keeps s g).mono.trans (settle_setEntry_keeps _ _ _).mono⟩

/-- The step ends with what the work has left: `v`, with the entry moved on. -/
theorem places (hwork : notSkipped s (nth s.schedule.entries n) = true)
    (hplaced : placeWork (nth s.schedule.entries n) (s.atTick g) = (v, none)) :
    nth (settle (takeEntry (s.atTick g) n)).schedule.entries n = tickedEntry s n due ∧
      Keeps (.scheduleTable :: Foot.settle) v (settle (takeEntry (s.atTick g) n)) := by
  have htaken : takeEntry (s.atTick g) n = setEntry n (tickedEntry s n due) v := takeEntry_placed h.isDue h.entry h.next hwork hplaced
  rw [htaken]
  exact ⟨settle_setEntry_same .., settle_setEntry_keeps _ _ _⟩

theorem misses {c : MissCause} (hwork : notSkipped s (nth s.schedule.entries n) = true)
    (hmissed : placeWork (nth s.schedule.entries n) (s.atTick g) = (s.atTick g, some c)) :
    TickMisses s (settle (takeEntry (s.atTick g) n)) n due c.no := by
  have htaken := takeEntry_missed h.isDue h.entry h.next hwork hmissed
  rw [htaken]
  refine ⟨settle_setEntry_same .., Emits.raises ?_, ?_⟩
  · have hbefore (x : SchedEntry) : Emits s (setEntry n x (s.atTick g)) [] :=
      .of_keeps (fs := [.scheduleTable, .scheduleState, .scheduleTick]) ((atTick_keeps s g).trans (setEntry_keeps n x _).mono)
    exact ((hbefore _).after_silent (raise_emits _ _ _ _)).then_silent (.of_keeps (settle_setEntry_keeps _ _ _))
  · exact (((atTick_keeps s g).mono.trans (setEntry_keeps n _ _).mono).trans (raise_keeps _ _ _ _).mono).trans
      (settle_setEntry_keeps _ _ _).mono

/-- R156: the tick itself, and whose slot its work is on. -/
theorem ticks : let t := settle (takeEntry (s.atTick g) n)
    t.schedule.running = true ∧ t.schedule.tick = T ∧ OtherSlotsSame (nth s.schedule.entries n).slot s t := by
  have hkeeps : Keeps (.scheduleTable :: .slotState :: Foot.changed ++ Foot.settle) (s.atTick g) (settle (takeEntry (s.atTick g) n)) :=
    (takeEntry_keeps_tick _ n).mono.trans (settle_keeps _).mono
  have hslot : (nth (s.atTick g).schedule.entries n).slot = (nth s.schedule.entries n).slot := (congrArg SchedEntry.slot h.entry).trans rfl
  have hothers := takeEntry_others (s.atTick g) n
  rw [hslot] at hothers
  exact ⟨(hkeeps.get .scheduleState).1.trans h.running, (hkeeps.get .scheduleTick).1.trans h.tick,
    settle_others ((OtherSlotsSame.of_keeps (atTick_keeps s g)).trans hothers)⟩

/-! ## Each kind of work -/

theorem rechallenges {r : ReturnState} (hkind : (nth s.schedule.entries n).kind = .rechallenge)
    (hstate : (s.slot (nth s.schedule.entries n).slot).state = r.state) :
    let i := (nth s.schedule.entries n).slot
    let t := settle (takeEntry (s.atTick g) n)
    (isPending s i .challenge = true → TicksQuietly s t n due) ∧
    (isPending s i .challenge = false → (s.line (lineOf i)).queue.length ≤ 4 →
      nth t.schedule.entries n = tickedEntry s n due ∧ (t.slot i).state = .challenging (.rechallenge r) ∧
      JoinsLine s t i .challenge .schedule none) ∧
    (isPending s i .challenge = false → 4 < (s.line (lineOf i)).queue.length → TickMisses s t n due 0) := by
  have hwork := notSkipped_rechallenge hkind (hstate ▸ inService_state r)
  refine ⟨fun hpending => ?_, fun hfree hroom => ?_, fun hfree hfull => ?_⟩
  · exact h.skips (by rw [hwork, hpending]; rfl)
  · obtain ⟨hentry, hkeeps⟩ := h.places (by rw [hwork, hfree]; rfl) (placeWork_rechallenge_joins (s := s.atTick g) hkind hstate hroom)
    exact ⟨hentry, (hkeeps .slotState (by decide +kernel) _).trans (rechallenged_state _),
      .of_lines ((hkeeps.get .lines).trans (((rechallenged_keeps _).get .lines).trans (joined_lines _ _ _ _)))⟩
  · exact h.misses (c := .lineFull) (by rw [hwork, hfree]; rfl) (placeWork_rechallenge_full (s := s.atTick g) hkind hfull)

theorem commits (hkind : (nth s.schedule.entries n).kind = .commit)
    (hservice : (s.slot (nth s.schedule.entries n).slot).state.inService = true) :
    let i := (nth s.schedule.entries n).slot
    let sl := s.slot i
    let t := settle (takeEntry (s.atTick g) n)
    (sl.consumed ≤ sl.committed ∨ isPending s i .usageWrite = true → TicksQuietly s t n due) ∧
    (sl.committed < sl.consumed → isPending s i .usageWrite = false →
      (heldSlot s = some i → sl.consumed - sl.committed ≤ pressureLimit s i →
        nth t.schedule.entries n = tickedEntry s n due ∧ (t.slot i).owedCommit = true ∧ t.lines = s.lines ∧ t.audit = s.audit) ∧
      (heldSlot s = some i → pressureLimit s i < sl.consumed - sl.committed →
        nth t.schedule.entries n = tickedEntry s n due ∧
        t.audit = { s.audit with state := .aborted .commitPressure, pass := none } ∧ isPending t i .usageWrite = true) ∧
      (heldSlot s ≠ some i → (s.line (lineOf i)).queue.length ≤ 4 →
        nth t.schedule.entries n = tickedEntry s n due ∧ JoinsLine s t i .usageWrite .schedule none ∧
        (t.slot i).owedCommit = sl.owedCommit) ∧
      (heldSlot s ≠ some i → 4 < (s.line (lineOf i)).queue.length → TickMisses s t n due 0)) := by
  have hwork := notSkipped_commit hkind hservice
  have heligible := commitEligible_of_inService hservice
  refine ⟨fun hnone => h.skips ?_, fun hbehind hfree => ?_⟩
  · rw [hwork]
    rcases hnone with hlevel | hpending
    · rw [decide_eq_false (Nat.not_lt.2 hlevel), Bool.false_and]
    · rw [hpending, Bool.not_true, Bool.and_false]
  have hdone : notSkipped s (nth s.schedule.entries n) = true := by
    rw [hwork, decide_eq_true hbehind, hfree]
    rfl
  refine ⟨fun hheld hwithin => ?_, fun hheld hover => ?_, fun hunheld hroom => ?_, fun hunheld hfull => ?_⟩
  · obtain ⟨hentry, hkeeps⟩ := h.places hdone (placeWork_commit_held (s := s.atTick g) hkind heligible hheld)
    rw [pressureTest_within (owed_within g hwithin)] at hkeeps
    have howed := setOwedCommit_keeps (nth s.schedule.entries n).slot true (s.atTick g)
    refine ⟨hentry, ?_, ?_, ?_⟩
    · rw [slot_of_keeps hkeeps, setOwedCommit_slot]
    · exact (hkeeps.get .lines).trans (howed.get .lines)
    · exact (hkeeps.get .audit).trans (howed.get .audit)
  · obtain ⟨hentry, hkeeps⟩ := h.places hdone (placeWork_commit_held (s := s.atTick g) hkind heligible hheld)
    rw [pressureTest_over (s := setOwedCommit _ true (s.atTick g)) hheld (owed_over g hover)] at hkeeps
    obtain ⟨haudit, hpends⟩ := pressure_ends g hheld heligible hbehind
    exact ⟨hentry, (hkeeps.get .audit).trans haudit, (isPending_of_lines (hkeeps.get .lines) _ _).trans hpends⟩
  · obtain ⟨hentry, hkeeps⟩ := h.places hdone (placeWork_commit_joins (s := s.atTick g) hkind heligible hunheld hfree hroom)
    refine ⟨hentry, .of_lines ((hkeeps.get .lines).trans (joined_lines _ _ _ _)), ?_⟩
    rw [slot_of_keeps hkeeps]
    rfl
  · exact h.misses (c := .lineFull) hdone (placeWork_commit_full (s := s.atTick g) hkind heligible hunheld hfree hfull)

theorem audits (hkind : (nth s.schedule.entries n).kind = .audit)
    (hservice : (s.slot (nth s.schedule.entries n).slot).state.inService = true) :
    let i := (nth s.schedule.entries n).slot
    let t := settle (takeEntry (s.atTick g) n)
    (s.audit.state.active = true → TickMisses s t n due 1) ∧
    (s.audit.state.active = false → 4 < (s.line (lineOf i)).queue.length → TickMisses s t n due 0) ∧
    (s.audit.state.active = false → (s.line (lineOf i)).queue.length ≤ 4 →
      nth t.schedule.entries n = tickedEntry s n due ∧ JoinsLine s t i .recordRead .other (some 0) ∧
      t.audit = startedAudit i .once false) := by
  have hwork := notSkipped_audit hkind hservice
  refine ⟨fun hactive => h.misses (c := .auditBusy) hwork (placeWork_audit_busy (s := s.atTick g) hkind hactive),
    fun hidle hfull => h.misses (c := .lineFull) hwork (placeWork_audit_full (s := s.atTick g) hkind hidle hfull), fun hidle hroom => ?_⟩
  obtain ⟨hentry, hkeeps⟩ := h.places hwork (placeWork_audit_starts (s := s.atTick g) hkind hidle hroom)
  exact ⟨hentry, .of_lines ((hkeeps.get .lines).trans (started_lines _ _ _ _ _)), hkeeps.get .audit⟩

end DueTick

/-- Settles O32: at the tick the table is the one entry's work, which is skipped, placed or missed by its kind. -/
theorem dueEntries : Obligations.DueEntries := by
  unfold Obligations.DueEntries
  intro s n T due honly
  obtain ⟨g, h, htaken⟩ := scheduleTick_onlyDue honly
  have hx : exec .scheduleTick s = .next (settle (takeEntry (s.atTick g) n)) := (live_powered honly.1).trans (by rw [htaken])
  obtain ⟨hrunning, htick, hothers⟩ := h.ticks
  exact ⟨_, hx, hrunning, htick, hothers, fun hunserved => h.skips (notSkipped_unserved hunserved), fun hkind r => h.rechallenges hkind,
    h.commits, h.audits⟩

end Sys2Proof.Machine
end
